-- ==== Sys2Proof/Word.lean ====
section
/-! DEFINITION. The word types of CHIP8-CORE (spec 00_scope.md R6, R8, R9). -/

namespace Sys2Proof

/-- An 8-bit cell: a V register, a timer, a memory byte (R6 `REG_W`, `TIMER_W`). -/
abbrev Byte := BitVec 8

/-- A 16-bit value: an opcode, `I`, `pc`, a stack entry (R6 `OPCODE_W`, `I_W`, `PC_W`, `STACK_ENTRY_W`). -/
abbrev Word := BitVec 16

/-- The 12-bit address constant `NNN` (R14). -/
abbrev Addr := BitVec 12

/-- A 4-bit opcode field (R81). -/
abbrev Nibble := BitVec 4

/-- A general register's index, 0x0 to 0xF (R21); also a logical key's index (R36). -/
abbrev RegIdx := Fin 16

/-- The index of `VF`, which is `V[15]` (R9, R21). -/
abbrev vF : RegIdx := 15

end Sys2Proof
end

