-- ==== Sys2Proof/Config.lean ====
section
/-! DEFINITION. What an implementation fixes (spec 00_scope.md R6), the parameters the model takes as an argument, the
input events, and the free values. -/

/-- An input event (10_state.md R48, 60_exceptions.md R234). The `rnd` input is no event: it is sampled by `CXNN`
alone. -/
inductive Sys2Proof.Machine.Event where
  | reset (rom : List Byte)
  | cycle
  | tick
  | key (i : RegIdx) (pressed : Bool)
  | quit
deriving DecidableEq, Repr, Inhabited

namespace Sys2Proof.Config

/-- `MEM_SIZE`: addresses 0x000 to 0xFFF (R6). -/
@[simp] abbrev memSize : Nat := 0x1000

/-- `FONT_END`: the font occupies [0x000, 0x050) (R6). -/
@[simp] abbrev fontEnd : Nat := 0x050

/-- `PROG_BASE` (R6). -/
@[simp] abbrev progBase : Nat := 0x200

/-- `MAX_ROM`: 0x1000 - 0x200 (R6). -/
@[simp] abbrev maxRom : Nat := 3584

/-- `STACK_DEPTH` (R6). -/
@[simp] abbrev stackDepth : Nat := 16

/-- `ILLEGAL_POLICY` (R6, R226): what a legacy or an unsupported word does. -/
inductive IllegalPolicy where
  /-- `Continue`, the default: the word is reported and execution goes on. -/
  | continues
  /-- `Halt`: the word is a fault. -/
  | halts
deriving DecidableEq, Repr

/-- The parameters of R6 that the model takes as an argument. They stand in `State` (log entry 1), so that a statement
about every state is a statement about every choice of them; no step changes them. -/
structure Params where
  /-- `ILLEGAL_POLICY` (D8). -/
  illegalPolicy : IllegalPolicy
  /-- `FONT`: the 80 bytes at [0x000, 0x050) (D5). -/
  font          : Vector Byte 80
  /-- `MEM_INIT` (D4), a function from address to byte written as plain data: the first cell listed for an address gives
  its byte, an address with no cell has 0x00, the spec's default. -/
  memInit       : List (Nat × Byte)
  /-- `CYCLE_HZ`, nominal 600; no rule depends on it (D32). -/
  cycleHz       : Nat
  /-- `TICK_HZ`, nominal 60; no rule depends on it (D32). -/
  tickHz        : Nat
deriving DecidableEq, Repr

/-- FREE VALUE (log entry 5): the byte on the `rnd` input at the n-th draw of `CXNN` for which the state lists no draw
(R142, R46: an input draw under no law). -/
opaque freeRnd : Nat → Byte

/-- FREE VALUE (log entry 4): the n-th event of an input sequence of which nothing is known (60_exceptions.md R235: the
order of events is not fixed, and the sequence may be infinite). -/
opaque freeEvent : Nat → Machine.Event

end Sys2Proof.Config
end

