-- ==== Sys2Proof/Machine/Defaults.lean ====
section
/-! DEFINITION. The parameters' default values (spec 00_scope.md R6), which `State.reset` takes. -/

namespace Sys2Proof.Machine

/-- The default `FONT`, glyph d at 5d to 5d + 4 (70_reset_and_hazards.md R264; the spec marks these bytes as general
knowledge: log entry 2, PRESUMED). -/
def defaultFont : Vector Byte 80 := #v[
  0xF0, 0x90, 0x90, 0x90, 0xF0,
  0x20, 0x60, 0x20, 0x20, 0x70,
  0xF0, 0x10, 0xF0, 0x80, 0xF0,
  0xF0, 0x10, 0xF0, 0x10, 0xF0,
  0x90, 0x90, 0xF0, 0x10, 0x10,
  0xF0, 0x80, 0xF0, 0x10, 0xF0,
  0xF0, 0x80, 0xF0, 0x90, 0xF0,
  0xF0, 0x10, 0x20, 0x40, 0x40,
  0xF0, 0x90, 0xF0, 0x90, 0xF0,
  0xF0, 0x90, 0xF0, 0x10, 0xF0,
  0xF0, 0x90, 0xF0, 0x90, 0x90,
  0xE0, 0x90, 0xE0, 0x90, 0xE0,
  0xF0, 0x80, 0x80, 0x80, 0xF0,
  0xE0, 0x90, 0x90, 0x90, 0xE0,
  0xF0, 0x80, 0xF0, 0x80, 0xF0,
  0xF0, 0x80, 0xF0, 0x80, 0x80]

/-- Every parameter at the spec's default (R6): `Continue`, the conventional font, `MEM_INIT` 0x00 everywhere, the
nominal rates. -/
def defaultParams : Config.Params where
  illegalPolicy := .continues
  font := defaultFont
  memInit := []
  cycleHz := 600
  tickHz := 60

end Sys2Proof.Machine
end

