-- ==== Sys2Proof/Machine/State.lean ====
section
/-! DEFINITION. The state of CHIP8-CORE (spec 10_state.md R20), its input sequence and output events (R48, R49), the reasons a
step can stop, and the state right after reset (R45). -/

namespace Sys2Proof.Machine

/-- The dispatcher's four states (R39). -/
inductive DState where
  | ready
  | awaitingKey
  | halted
  | terminated
deriving DecidableEq, Repr

/-- The causes of 60_exceptions.md R221. -/
inductive Cause where
  | none
  | pcOutOfRange
  | stackOverflow
  | stackUnderflow
  | unsupportedOpcode
  | legacyCall
  | memoryOutOfRange
  | fontWrite
  | keyOutOfRange
deriving DecidableEq, Repr

/-- The fault status register (R41). -/
structure Fsr where
  cause : BitVec 4
  fpc   : Word
  info  : Word
deriving DecidableEq, Repr

/-- The display buffer: 32 rows of 64 pixels, indexed `disp[y][x]` (R37, 42_display.md R160). -/
abbrev Display := Vector (Vector Bool 64) 32

/-- The memory as the list of the cells that differ from their reset contents, addresses strictly rising
(20_memory.md R60; the form is `Memory.wf` of Machine/Ops.lean). -/
abbrev Memory := List Host.Cell

/-- The events that come after the listed ones, without end (60_exceptions.md R235; log entry 4). -/
inductive Source where
  /-- `e`, then `es`, then `e` again, over and over. -/
  | repeating (e : Event) (es : List Event)
  /-- The free sequence `Config.freeEvent`, from its n-th event on. -/
  | free (n : Nat)
deriving DecidableEq, Repr

/-- An infinite sequence of input events, the next one first: the listed ones, then the source's (log entry 4). -/
structure EventStream where
  listed : List Event
  after  : Source
deriving DecidableEq, Repr

/-- An output event (R49): `display_out` `Clear` and `Frame(disp)`, and `report`. -/
inductive Output where
  | clear
  | frame (disp : Display)
  | report (cause : BitVec 4) (fpc : Word) (info : Word)
deriving DecidableEq, Repr

/-- The reasons a step stops with a fault: NONE. Every fault of this core is an effect the spec describes, a next state
with `FSR` written and the dispatcher `Halted` (R223), so no arm and no event answers `.fault` (log entry 13). -/
inductive Fault where
deriving DecidableEq, Repr

/-- The reasons a step has no meaning. -/
inductive Refusal where
  /-- Raised by `exec` for an instruction that has no meaning yet; safe. No arm raises it. -/
  | notModelled (mnemonic : String)
  /-- Raised by the `reset` event for a ROM longer than 3584 bytes: the spec refuses such a reset and says that the
  model has no step for it (70_reset_and_hazards.md R262); safe. -/
  | romTooLong
deriving DecidableEq, Repr

/-- Everything the spec gives the machine (R20), and below it the fields that are the model's own: the parameters, and
the interface of R48 and R49. -/
@[ext]
structure State where
  /-- The 4096-byte memory (R38). -/
  mem    : Memory
  /-- The general registers V0 to VF (R21). -/
  v      : Vector Byte 16
  /-- The address register `I` (R25). -/
  i      : Word
  /-- The program counter; at handler entry, the address of the next instruction (R27). -/
  pc     : Word
  /-- The return stack, the last entry on top (R32, R12). -/
  stack  : List Word
  /-- The delay timer `DT` (R34). -/
  dt     : Byte
  /-- The sound timer `ST` (R35). -/
  st     : Byte
  /-- `key[i]`: true for pressed (R36). -/
  key    : Vector Bool 16
  /-- The display buffer (R37). -/
  disp   : Display
  /-- The dispatcher's state (R39). -/
  dstate : DState
  /-- `wait_x`: the X of the `FX0A` that waits (R40). -/
  waitX  : RegIdx
  /-- The fault status register (R41). -/
  fsr    : Fsr
  /-- MODEL'S OWN: the parameters of R6, changed by no step (log entry 1). -/
  params : Config.Params
  /-- MODEL'S OWN: the input events still to be taken, a sequence without end (log entry 4). -/
  events : EventStream
  /-- MODEL'S OWN: the bytes the `rnd` input will show, one for each draw, the next one first (log entry 5). -/
  rndIn  : List Byte
  /-- MODEL'S OWN: how many draws were made with no byte listed; the free value `Config.freeRnd` is applied to it
  (log entry 5). -/
  draws  : Nat
  /-- MODEL'S OWN: every output event emitted so far, the oldest first (log entry 6). -/
  out    : List Output
deriving DecidableEq, Repr

/-- What an event or an instruction answers. -/
abbrev Result := Host.Outcome State Fault Refusal

/-- The state right after `reset` with an empty ROM and the default parameters (R45, 70_reset_and_hazards.md R261).
Memory lists nothing: every cell reads as its reset contents, the font and `MEM_INIT`. -/
def State.reset : State where
  mem := []
  v := Vector.replicate 16 0x00
  i := 0x0000
  pc := 0x0200
  stack := []
  dt := 0x00
  st := 0x00
  key := Vector.replicate 16 false
  disp := Vector.replicate 32 (Vector.replicate 64 false)
  dstate := .ready
  waitX := 0
  fsr := { cause := 0, fpc := 0, info := 0 }
  params := defaultParams
  events := { listed := [], after := .repeating .cycle [] }
  rndIn := []
  draws := 0
  out := []

end Sys2Proof.Machine
end

