-- ==== Sys2Proof/Machine/Ops.lean ====
section
/-! DEFINITION. The named operations over memory, registers, stack, outputs and the random input, the range check, and
fault entry and report (spec 20_memory.md, 60_exceptions.md). -/

namespace Sys2Proof.Machine

/-! ## Memory as a canonical list -/

/-- The byte the first cell listed for address `a` holds. -/
def cellAt : List Host.Cell → Nat → Option Byte
  | [], _ => none
  | (b, w) :: m, a => if a = b then some w else cellAt m a

/-- The reset contents of address `a`, which is what an address that memory does not list reads as: the `FONT` in
[0x000, 0x050), `MEM_INIT` elsewhere (20_memory.md R68, 70_reset_and_hazards.md R261). -/
def initByte (p : Config.Params) (a : Nat) : Byte :=
  if h : a < Config.fontEnd then p.font[a] else (cellAt p.memInit a).getD 0x00

/-- The byte at address `a` of a memory over the reset contents `base`. -/
def Memory.read (base : Nat → Byte) (m : Memory) (a : Nat) : Byte := (cellAt m a).getD (base a)

/-- The memory with the byte `x` at address `a`; an entry equal to the reset contents is removed. -/
def Memory.write (base : Nat → Byte) : Memory → Nat → Byte → Memory
  | [], a, x => if x = base a then [] else [(a, x)]
  | (b, w) :: m, a, x =>
    if a < b then (if x = base a then (b, w) :: m else (a, x) :: (b, w) :: m)
    else if a = b then (if x = base a then m else (a, x) :: m)
    else (b, w) :: Memory.write base m a x

/-- The canonical form: addresses strictly rising, inside [0, 4096), and no entry equal to the reset contents. -/
abbrev Memory.wf (base : Nat → Byte) (m : Memory) : Prop :=
  m.Pairwise (fun c d => c.1 < d.1) ∧ ∀ c ∈ m, c.1 < Config.memSize ∧ c.2 ≠ base c.1

/-- The byte at address `a`: the value `MemRead(a, 1)` returns in range (R10, R62). -/
def State.byteAt (s : State) (a : Nat) : Byte := Memory.read (initByte s.params) s.mem a

/-- The write `MemWrite(a, 1, x)` does when its checks pass (R10, R62). -/
def State.setByte (s : State) (a : Nat) (x : Byte) : State :=
  { s with mem := Memory.write (initByte s.params) s.mem a x }

/-- The bytes at `a`, `a + 1`, …, `n` of them, in ascending order (R66). -/
def State.bytesAt (s : State) : Nat → Nat → List Byte
  | _, 0 => []
  | a, n + 1 => s.byteAt a :: s.bytesAt (a + 1) n

/-- Stores at `a`, `a + 1`, … in ascending order (R66). -/
def State.setBytes (s : State) : Nat → List Byte → State
  | _, [] => s
  | a, x :: xs => (s.setByte a x).setBytes (a + 1) xs

/-! ## Registers -/

/-- `V[x]` (R9, R21). -/
def State.reg (s : State) (x : RegIdx) : Byte := s.v[x]

/-- `V[x] <- b` (R9). -/
def State.setReg (s : State) (x : RegIdx) (b : Byte) : State := { s with v := s.v.set x.val b x.isLt }

/-- `V[k] <- MemRead(a + k, 1)` for the first `n` registers, ascending (44_index_memory.md R205). -/
def State.loadRegs (s : State) (a : Nat) : Nat → State
  | 0 => s
  | n + 1 => (s.loadRegs a n).setReg (Fin.ofNat 16 n) (s.byteAt (a + n))

/-- `I <- w` (R25). -/
def State.setI (s : State) (w : Word) : State := { s with i := w }

/-- `pc <- w` (R9). -/
def State.setPc (s : State) (w : Word) : State := { s with pc := w }

/-- `pc <- pc + 2`: the fetch's advance and the skip (R27, 40_flow.md R119). -/
def State.advance (s : State) : State := s.setPc (s.pc + 2)

/-- A skip instruction's effect: the extra advance when its condition holds (40_flow.md R119). -/
def State.skipIf (s : State) (c : Bool) : State := if c then s.advance else s

/-- `DT <- b` (R34). -/
def State.setDt (s : State) (b : Byte) : State := { s with dt := b }

/-- `ST <- b` (R35). -/
def State.setSt (s : State) (b : Byte) : State := { s with st := b }

/-- `push(w)`: appends to the stack (R12). -/
def State.push (s : State) (w : Word) : State := { s with stack := s.stack ++ [w] }

/-- The stack without its last entry (R12). -/
def State.dropTop (s : State) : State := { s with stack := s.stack.dropLast }

/-- The display buffer is replaced (R37). -/
def State.setDisp (s : State) (d : Display) : State := { s with disp := d }

/-- `wait_x <- x; dstate <- AwaitingKey` (43_keys_timers.md R184). -/
def State.await (s : State) (x : RegIdx) : State := { s with waitX := x, dstate := .awaitingKey }

/-! ## The random input (41_alu.md R142) -/

/-- The byte the `rnd` input shows to the next draw. -/
def State.rndByte (s : State) : Byte :=
  match s.rndIn with
  | b :: _ => b
  | [] => Config.freeRnd s.draws

/-- The state after a draw: the next draw is a fresh one. -/
def State.takeDraw (s : State) : State :=
  match s.rndIn with
  | _ :: bs => { s with rndIn := bs }
  | [] => { s with draws := s.draws + 1 }

/-! ## Outputs, reports and faults -/

/-- `emit e` (R12). -/
def State.emit (s : State) (e : Output) : State := { s with out := s.out ++ [e] }

/-- The cause codes of 60_exceptions.md R221. -/
def Cause.code : Cause → BitVec 4
  | .none => 0
  | .pcOutOfRange => 1
  | .stackOverflow => 2
  | .stackUnderflow => 3
  | .unsupportedOpcode => 4
  | .legacyCall => 5
  | .memoryOutOfRange => 6
  | .fontWrite => 7
  | .keyOutOfRange => 8

/-- Fault entry for the instruction at address `a`: `FSR` is written, the report emitted, the dispatcher halted, and
nothing else changes (60_exceptions.md R223). -/
def State.raiseAt (s : State) (a : Word) (c : Cause) (info : Word) : State :=
  { s with
    fsr := { cause := c.code, fpc := a, info := info }
    out := s.out ++ [.report c.code a info]
    dstate := .halted }

/-- The address A the running instruction was fetched from: at handler entry `pc = A + 2` (R27). -/
def State.instrAddr (s : State) : Word := s.pc - 2

/-- `raise Fault(c, info)` from an instruction (60_exceptions.md R223). There is no return from it (R225). -/
def State.raise (s : State) (c : Cause) (info : Word) : State := s.raiseAt s.instrAddr c info

/-- `report(c, info)` under `Continue`: the report event and nothing else (60_exceptions.md R227). -/
def State.report (s : State) (c : Cause) (info : Word) : State := s.emit (.report c.code s.instrAddr info)

/-- A legacy or an unsupported word: `ILLEGAL_POLICY` decides (60_exceptions.md R226, R228). -/
def State.illegal (s : State) (c : Cause) (op : Word) : State :=
  match s.params.illegalPolicy with
  | .continues => s.report c op
  | .halts => s.raise c op

/-! ## The range check (20_memory.md R66) -/

/-- Whether an access reads or writes. -/
inductive Access where
  | read
  | write
deriving DecidableEq, Repr

/-- The check of one address: `MemRead`'s and `MemWrite`'s (R62, R63). -/
def addrFault (acc : Access) (a : Nat) : Option Cause :=
  if Config.memSize ≤ a then some .memoryOutOfRange
  else if acc = .write ∧ a < Config.fontEnd then some .fontWrite
  else none

/-- `CheckRange(a, n, acc)`: the first address that fails, in ascending order, and its cause (R66). -/
def rangeFault (acc : Access) : Nat → Nat → Option (Cause × Nat)
  | _, 0 => none
  | a, n + 1 =>
    match addrFault acc a with
    | some c => some (c, a)
    | none => rangeFault acc (a + 1) n

/-- An instruction that touches addresses `a` to `a + n - 1`: the whole range is checked first, and a failing check is
the instruction's only effect (R66). -/
def State.withRange (s : State) (acc : Access) (a n : Nat) (effect : State → State) : Result :=
  match rangeFault acc a n with
  | some (c, b) => .next (s.raise c (BitVec.ofNat 16 b))
  | none => .next (effect s)

/-! ## Output levels (10_state.md R49, R50) -/

/-- The `fault` output: `FSR`. -/
def State.faultOut (s : State) : Fsr := s.fsr

/-- The `status` output: `dstate` (R51). -/
def State.statusOut (s : State) : DState := s.dstate

/-- The `sound_on` output: `bool(ST ≠ 0)` (R50). -/
def State.soundOn (s : State) : Bool := s.st != 0

end Sys2Proof.Machine
end

