-- ==== Sys2Proof/Machine/Flags.lean ====
section
/-! DEFINITION. The results and flag computations (spec 41_alu.md R143, 44_index_memory.md R201). Values are exact
naturals, reduced at the end (R9). -/

namespace Sys2Proof.Machine

/-- `bool(c)` as a byte (R9). -/
def flagByte (c : Bool) : Byte := if c then 1 else 0

/-- `V[15] <- bool(c)` (R22). -/
def State.setFlag (s : State) (c : Bool) : State := s.setReg vF (flagByte c)

/-- The result register first, `VF` last: when X = F, `VF` holds the flag (41_alu.md R130). -/
def State.setRegFlag (s : State) (x : RegIdx) (b : Byte) (c : Bool) : State := (s.setReg x b).setFlag c

/-- `(a + b) mod 256` (R132, R137). -/
def addByte (a b : Byte) : Byte := BitVec.ofNat 8 ((a.toNat + b.toNat) % 256)

/-- The carry: the sum exceeds 255 (R137). -/
def carry (a b : Byte) : Bool := decide (255 < a.toNat + b.toNat)

/-- `(a + 256 - b) mod 256` (R138, R140). -/
def subByte (a b : Byte) : Byte := BitVec.ofNat 8 ((a.toNat + 256 - b.toNat) % 256)

/-- No borrow in `a - b`: `a >= b` (R138, R140). -/
def noBorrow (a b : Byte) : Bool := decide (b.toNat ≤ a.toNat)

/-- `a >> 1` (R139). -/
def shrByte (a : Byte) : Byte := a >>> 1

/-- The bit a right shift pushes out, `a[0]` (R139). -/
def shrOut (a : Byte) : Bool := a.getLsbD 0

/-- `(a << 1) mod 256` (R141). -/
def shlByte (a : Byte) : Byte := a <<< 1

/-- The bit a left shift pushes out, `a[7]` (R141). -/
def shlOut (a : Byte) : Bool := a.getLsbD 7

/-- `FX1E`'s exact sum, `I + VX` (R201). -/
def indexSum (i : Word) (b : Byte) : Nat := i.toNat + b.toNat

/-- `FX1E`'s flag: the sum exceeds 0xFFF (R201). -/
def indexOverflow (i : Word) (b : Byte) : Bool := decide (0x0FFF < indexSum i b)

/-- `FX1E`'s new `I`: the sum, less 0x1000 when it exceeds 0xFFF (R201). -/
def indexAdd (i : Word) (b : Byte) : Word :=
  BitVec.ofNat 16 (if 0x0FFF < indexSum i b then indexSum i b - 0x1000 else indexSum i b)

end Sys2Proof.Machine
end

