-- ==== Sys2Proof/Machine/Alu.lean ====
section
/-! DEFINITION. Register loads and ALU (spec 41_alu.md). Every operand is read from the state at handler entry. -/

namespace Sys2Proof.Machine

/-- `6XNN` (R131). -/
def execLdImm (x : RegIdx) (nn : Byte) (s : State) : Result := .next (s.setReg x nn)

/-- `7XNN`, without carry (R132). -/
def execAddImm (x : RegIdx) (nn : Byte) (s : State) : Result := .next (s.setReg x (addByte (s.reg x) nn))

/-- `8XY0` (R133). -/
def execLdReg (x y : RegIdx) (s : State) : Result := .next (s.setReg x (s.reg y))

/-- `8XY1` (R134). -/
def execOrReg (x y : RegIdx) (s : State) : Result := .next (s.setReg x (s.reg x ||| s.reg y))

/-- `8XY2` (R135). -/
def execAndReg (x y : RegIdx) (s : State) : Result := .next (s.setReg x (s.reg x &&& s.reg y))

/-- `8XY3` (R136). -/
def execXorReg (x y : RegIdx) (s : State) : Result := .next (s.setReg x (s.reg x ^^^ s.reg y))

/-- `8XY4`, add with carry (R137). -/
def execAddReg (x y : RegIdx) (s : State) : Result :=
  .next (s.setRegFlag x (addByte (s.reg x) (s.reg y)) (carry (s.reg x) (s.reg y)))

/-- `8XY5`, VX - VY with borrow (R138). -/
def execSubReg (x y : RegIdx) (s : State) : Result :=
  .next (s.setRegFlag x (subByte (s.reg x) (s.reg y)) (noBorrow (s.reg x) (s.reg y)))

/-- `8XY6`, shift right; Y is ignored (R139). -/
def execShr (x _y : RegIdx) (s : State) : Result := .next (s.setRegFlag x (shrByte (s.reg x)) (shrOut (s.reg x)))

/-- `8XY7`, VY - VX with borrow (R140). -/
def execSubnReg (x y : RegIdx) (s : State) : Result :=
  .next (s.setRegFlag x (subByte (s.reg y) (s.reg x)) (noBorrow (s.reg y) (s.reg x)))

/-- `8XYE`, shift left; Y is ignored (R141). -/
def execShl (x _y : RegIdx) (s : State) : Result := .next (s.setRegFlag x (shlByte (s.reg x)) (shlOut (s.reg x)))

/-- `CXNN`, the byte on the `rnd` input masked by NN; the draw is used up (R142). -/
def execRnd (x : RegIdx) (nn : Byte) (s : State) : Result := .next (s.takeDraw.setReg x (s.rndByte &&& nn))

end Sys2Proof.Machine
end

