-- ==== Sys2Proof/Syntax.lean ====
section
/-! DEFINITION. The 35 operations of spec/opcode_table.json, one constructor a row (R2). The names are the conventional
mnemonics of 30_encoding.md R97; the pattern that names the row stands in each docstring. -/

namespace Sys2Proof

/-- One instruction, its operands decoded (30_encoding.md R81 to R83). -/
inductive Instr where
  /-- `00E0` -/
  | cls
  /-- `00EE` -/
  | ret
  /-- `0NNN`, the legacy call -/
  | sys (nnn : Addr)
  /-- `1NNN` -/
  | jp (nnn : Addr)
  /-- `2NNN` -/
  | call (nnn : Addr)
  /-- `3XNN` -/
  | seImm (x : RegIdx) (nn : Byte)
  /-- `4XNN` -/
  | sneImm (x : RegIdx) (nn : Byte)
  /-- `5XY0` -/
  | seReg (x y : RegIdx)
  /-- `6XNN` -/
  | ldImm (x : RegIdx) (nn : Byte)
  /-- `7XNN` -/
  | addImm (x : RegIdx) (nn : Byte)
  /-- `8XY0` -/
  | ldReg (x y : RegIdx)
  /-- `8XY1` -/
  | orReg (x y : RegIdx)
  /-- `8XY2` -/
  | andReg (x y : RegIdx)
  /-- `8XY3` -/
  | xorReg (x y : RegIdx)
  /-- `8XY4` -/
  | addReg (x y : RegIdx)
  /-- `8XY5` -/
  | subReg (x y : RegIdx)
  /-- `8XY6`; Y is decoded and ignored -/
  | shr (x y : RegIdx)
  /-- `8XY7` -/
  | subnReg (x y : RegIdx)
  /-- `8XYE`; Y is decoded and ignored -/
  | shl (x y : RegIdx)
  /-- `9XY0` -/
  | sneReg (x y : RegIdx)
  /-- `ANNN` -/
  | ldI (nnn : Addr)
  /-- `BNNN` -/
  | jpV0 (nnn : Addr)
  /-- `CXNN` -/
  | rnd (x : RegIdx) (nn : Byte)
  /-- `DXYN` -/
  | drw (x y : RegIdx) (n : Nibble)
  /-- `EX9E` -/
  | skp (x : RegIdx)
  /-- `EXA1` -/
  | sknp (x : RegIdx)
  /-- `FX07` -/
  | ldVxDt (x : RegIdx)
  /-- `FX0A` -/
  | ldVxKey (x : RegIdx)
  /-- `FX15` -/
  | ldDtVx (x : RegIdx)
  /-- `FX18` -/
  | ldStVx (x : RegIdx)
  /-- `FX1E` -/
  | addI (x : RegIdx)
  /-- `FX29` -/
  | ldFont (x : RegIdx)
  /-- `FX33` -/
  | bcd (x : RegIdx)
  /-- `FX55` -/
  | store (x : RegIdx)
  /-- `FX65` -/
  | load (x : RegIdx)
deriving DecidableEq, Repr

end Sys2Proof
end

