-- ==== Sys2Proof/Decode.lean ====
section
/-! DEFINITION. Decode (spec 30_encoding.md R84 to R89), the encoder after it (R82), the opcode table's mask and match
columns, and the decoder over bytes and table words. -/

namespace Sys2Proof

/-! ## Fields (R81) -/

/-- The family, `op[15:12]`. -/
def Word.family (op : Word) : Nibble := op.extractLsb' 12 4

/-- The field `X`, `op[11:8]`, as a register index. -/
def Word.x (op : Word) : RegIdx := (op.extractLsb' 8 4).toFin

/-- The field `Y`, `op[7:4]`, as a register index. -/
def Word.y (op : Word) : RegIdx := (op.extractLsb' 4 4).toFin

/-- The field `N`, `op[3:0]`. -/
def Word.n (op : Word) : Nibble := op.extractLsb' 0 4

/-- The field `NN`, `op[7:0]`. -/
def Word.nn (op : Word) : Byte := op.extractLsb' 0 8

/-- The field `NNN`, `op[11:0]`. -/
def Word.nnn (op : Word) : Addr := op.extractLsb' 0 12

/-! ## Decode -/

/-- The outcomes of decoding a word (R84). The legacy call is the instruction `sys`. -/
inductive Decoded where
  | instr (i : Instr)
  | unsupported (op : Word)
deriving DecidableEq, Repr

/-- Family 0 matches the whole word (R86). -/
def decode0 (op : Word) : Instr :=
  if op = 0x00E0#16 then .cls
  else if op = 0x00EE#16 then .ret
  else .sys (Word.nnn op)

/-- Family 8, by the low nibble (R88). -/
def decode8 (op : Word) : Decoded :=
  match (Word.n op).toNat with
  | 0x0 => .instr (.ldReg (Word.x op) (Word.y op))
  | 0x1 => .instr (.orReg (Word.x op) (Word.y op))
  | 0x2 => .instr (.andReg (Word.x op) (Word.y op))
  | 0x3 => .instr (.xorReg (Word.x op) (Word.y op))
  | 0x4 => .instr (.addReg (Word.x op) (Word.y op))
  | 0x5 => .instr (.subReg (Word.x op) (Word.y op))
  | 0x6 => .instr (.shr (Word.x op) (Word.y op))
  | 0x7 => .instr (.subnReg (Word.x op) (Word.y op))
  | 0xE => .instr (.shl (Word.x op) (Word.y op))
  | _ => .unsupported op

/-- Family E, by the low byte (R89). -/
def decodeE (op : Word) : Decoded :=
  match (Word.nn op).toNat with
  | 0x9E => .instr (.skp (Word.x op))
  | 0xA1 => .instr (.sknp (Word.x op))
  | _ => .unsupported op

/-- Family F, by the low byte (R89). -/
def decodeF (op : Word) : Decoded :=
  match (Word.nn op).toNat with
  | 0x07 => .instr (.ldVxDt (Word.x op))
  | 0x0A => .instr (.ldVxKey (Word.x op))
  | 0x15 => .instr (.ldDtVx (Word.x op))
  | 0x18 => .instr (.ldStVx (Word.x op))
  | 0x1E => .instr (.addI (Word.x op))
  | 0x29 => .instr (.ldFont (Word.x op))
  | 0x33 => .instr (.bcd (Word.x op))
  | 0x55 => .instr (.store (Word.x op))
  | 0x65 => .instr (.load (Word.x op))
  | _ => .unsupported op

/-- The decode map by family (R85); families 5 and 9 ask for a low nibble of 0 (R87). Total: every word has exactly
one outcome. The last arm is family 0xF. -/
def decode (op : Word) : Decoded :=
  match (Word.family op).toNat with
  | 0x0 => .instr (decode0 op)
  | 0x1 => .instr (.jp (Word.nnn op))
  | 0x2 => .instr (.call (Word.nnn op))
  | 0x3 => .instr (.seImm (Word.x op) (Word.nn op))
  | 0x4 => .instr (.sneImm (Word.x op) (Word.nn op))
  | 0x5 => if Word.n op = 0 then .instr (.seReg (Word.x op) (Word.y op)) else .unsupported op
  | 0x6 => .instr (.ldImm (Word.x op) (Word.nn op))
  | 0x7 => .instr (.addImm (Word.x op) (Word.nn op))
  | 0x8 => decode8 op
  | 0x9 => if Word.n op = 0 then .instr (.sneReg (Word.x op) (Word.y op)) else .unsupported op
  | 0xA => .instr (.ldI (Word.nnn op))
  | 0xB => .instr (.jpV0 (Word.nnn op))
  | 0xC => .instr (.rnd (Word.x op) (Word.nn op))
  | 0xD => .instr (.drw (Word.x op) (Word.y op) (Word.n op))
  | 0xE => decodeE op
  | _ => decodeF op

/-! ## Encode -/

/-- A field's value put at bit position `lo` of a word (R81). -/
def place {w : Nat} (lo : Nat) (v : BitVec w) : Word := v.setWidth 16 <<< lo

/-- A register index as the 4-bit field that names it (R81). -/
def regField (x : RegIdx) : Nibble := BitVec.ofNat 4 x.val

/-- Format `A`: `ffff nnnn nnnn nnnn` (R82). -/
def formatA (f : Nibble) (nnn : Addr) : Word := place 12 f ||| place 0 nnn

/-- Formats `XNN` and `XS`: `ffff xxxx nnnn nnnn` (R82). -/
def formatXNN (f : Nibble) (x : RegIdx) (nn : Byte) : Word := place 12 f ||| place 8 (regField x) ||| place 0 nn

/-- Formats `XYS` and `XYN`: `ffff xxxx yyyy nnnn` (R82). -/
def formatXYN (f : Nibble) (x y : RegIdx) (n : Nibble) : Word :=
  place 12 f ||| place 8 (regField x) ||| place 4 (regField y) ||| place 0 n

/-- The word of an instruction (R82, R85, R88, R89). -/
def encode : Instr → Word
  | .cls => 0x00E0#16
  | .ret => 0x00EE#16
  | .sys nnn => formatA 0x0 nnn
  | .jp nnn => formatA 0x1 nnn
  | .call nnn => formatA 0x2 nnn
  | .seImm x nn => formatXNN 0x3 x nn
  | .sneImm x nn => formatXNN 0x4 x nn
  | .seReg x y => formatXYN 0x5 x y 0x0
  | .ldImm x nn => formatXNN 0x6 x nn
  | .addImm x nn => formatXNN 0x7 x nn
  | .ldReg x y => formatXYN 0x8 x y 0x0
  | .orReg x y => formatXYN 0x8 x y 0x1
  | .andReg x y => formatXYN 0x8 x y 0x2
  | .xorReg x y => formatXYN 0x8 x y 0x3
  | .addReg x y => formatXYN 0x8 x y 0x4
  | .subReg x y => formatXYN 0x8 x y 0x5
  | .shr x y => formatXYN 0x8 x y 0x6
  | .subnReg x y => formatXYN 0x8 x y 0x7
  | .shl x y => formatXYN 0x8 x y 0xE
  | .sneReg x y => formatXYN 0x9 x y 0x0
  | .ldI nnn => formatA 0xA nnn
  | .jpV0 nnn => formatA 0xB nnn
  | .rnd x nn => formatXNN 0xC x nn
  | .drw x y n => formatXYN 0xD x y n
  | .skp x => formatXNN 0xE x 0x9E
  | .sknp x => formatXNN 0xE x 0xA1
  | .ldVxDt x => formatXNN 0xF x 0x07
  | .ldVxKey x => formatXNN 0xF x 0x0A
  | .ldDtVx x => formatXNN 0xF x 0x15
  | .ldStVx x => formatXNN 0xF x 0x18
  | .addI x => formatXNN 0xF x 0x1E
  | .ldFont x => formatXNN 0xF x 0x29
  | .bcd x => formatXNN 0xF x 0x33
  | .store x => formatXNN 0xF x 0x55
  | .load x => formatXNN 0xF x 0x65

/-! ## The opcode table's columns (spec/opcode_table.json) -/

/-- The table's "match" and "mask" of the instruction's row. -/
def Instr.tableRow : Instr → Word × Word
  | .cls => (0x00E0, 0xFFFF)
  | .ret => (0x00EE, 0xFFFF)
  | .sys _ => (0x0000, 0xF000)
  | .jp _ => (0x1000, 0xF000)
  | .call _ => (0x2000, 0xF000)
  | .seImm _ _ => (0x3000, 0xF000)
  | .sneImm _ _ => (0x4000, 0xF000)
  | .seReg _ _ => (0x5000, 0xF00F)
  | .ldImm _ _ => (0x6000, 0xF000)
  | .addImm _ _ => (0x7000, 0xF000)
  | .ldReg _ _ => (0x8000, 0xF00F)
  | .orReg _ _ => (0x8001, 0xF00F)
  | .andReg _ _ => (0x8002, 0xF00F)
  | .xorReg _ _ => (0x8003, 0xF00F)
  | .addReg _ _ => (0x8004, 0xF00F)
  | .subReg _ _ => (0x8005, 0xF00F)
  | .shr _ _ => (0x8006, 0xF00F)
  | .subnReg _ _ => (0x8007, 0xF00F)
  | .shl _ _ => (0x800E, 0xF00F)
  | .sneReg _ _ => (0x9000, 0xF00F)
  | .ldI _ => (0xA000, 0xF000)
  | .jpV0 _ => (0xB000, 0xF000)
  | .rnd _ _ => (0xC000, 0xF000)
  | .drw _ _ _ => (0xD000, 0xF000)
  | .skp _ => (0xE09E, 0xF0FF)
  | .sknp _ => (0xE0A1, 0xF0FF)
  | .ldVxDt _ => (0xF007, 0xF0FF)
  | .ldVxKey _ => (0xF00A, 0xF0FF)
  | .ldDtVx _ => (0xF015, 0xF0FF)
  | .ldStVx _ => (0xF018, 0xF0FF)
  | .addI _ => (0xF01E, 0xF0FF)
  | .ldFont _ => (0xF029, 0xF0FF)
  | .bcd _ => (0xF033, 0xF0FF)
  | .store _ => (0xF055, 0xF0FF)
  | .load _ => (0xF065, 0xF0FF)

/-! ## Bytes -/

/-- Why bytes give no instruction, by name. -/
inductive Rejection where
  /-- Fewer than the two bytes of an instruction (R80). -/
  | truncated
  /-- The `UNSUPPORTED` class (R87 to R89). The machine does not stop on it: `cycle` follows `ILLEGAL_POLICY` (R228). -/
  | unsupported (op : Word)
deriving DecidableEq, Repr

/-- The word of two consecutive bytes: the byte at the lower address is `op[15:8]` (R64). -/
def wordOfBytes (hi lo : Byte) : Word := place 8 hi ||| place 0 lo

/-- The high byte of a word, the one at the lower address (R64). -/
def Word.hiByte (w : Word) : Byte := w.extractLsb' 8 8

/-- The low byte of a word, the one at the higher address (R64). -/
def Word.loByte (w : Word) : Byte := w.extractLsb' 0 8

/-- Decode the front of a byte sequence: an instruction and the rest, or a rejection by name. -/
def decodeBytes : List Byte → Except Rejection (Instr × List Byte)
  | hi :: lo :: rest =>
    match decode (wordOfBytes hi lo) with
    | .instr i => .ok (i, rest)
    | .unsupported op => .error (.unsupported op)
  | [] => .error .truncated
  | [_] => .error .truncated

/-- The bytes of an instruction, in address order (R64). -/
def encodeBytes (i : Instr) : List Byte := [Word.hiByte (encode i), Word.loByte (encode i)]

/-- The 16-bit word that `nbits` bits of value `w` stand for, every bit above `nbits` being 0. -/
def tableWord (nbits w : Nat) : Word := BitVec.ofNat 16 (w % 2 ^ nbits)

/-- The instruction the decoder reads from a row of spec/opcode_table.json given as a number: the word is laid out as
the hardware stores it, high byte first, and handed to the byte decoder. -/
def decodeTableWord (nbits w : Nat) : Option Instr :=
  match decodeBytes [Word.hiByte (tableWord nbits w), Word.loByte (tableWord nbits w)] with
  | .ok (i, _) => some i
  | .error _ => none

end Sys2Proof
end

