-- ==== Sys2Proof/Machine/Operands.lean ====
section
/-! DEFINITION. Operand forms: how fields and registers become the values an instruction uses (spec 30_encoding.md R83,
and the instruction rules named below). -/

namespace Sys2Proof.Machine

/-- `zext_16(NNN)`: the jump, call or `I` value (R83). -/
def zextAddr (nnn : Addr) : Word := nnn.setWidth 16

/-- `zext_16` of a byte. -/
def zextByte (b : Byte) : Word := b.setWidth 16

/-- `BNNN`'s target, `zext_16(NNN) + zext_16(V[0])`, not masked (40_flow.md R118). -/
def offsetTarget (nnn : Addr) (v0 : Byte) : Word := zextAddr nnn + zextByte v0

/-- `FX29`'s address: the full byte times 5, not masked (44_index_memory.md R202). -/
def glyphAddr (b : Byte) : Word := BitVec.ofNat 16 (b.toNat * 5)

/-- The hundreds, tens and ones of a byte, each a binary 0 to 9 (44_index_memory.md R203). -/
def bcdDigits (b : Byte) : List Byte :=
  [BitVec.ofNat 8 (b.toNat / 100), BitVec.ofNat 8 (b.toNat / 10 % 10), BitVec.ofNat 8 (b.toNat % 10)]

/-- `V[0]` to `V[x]`, ascending (44_index_memory.md R204). -/
def State.regsTo (s : State) (x : RegIdx) : List Byte := s.v.toList.take (x.val + 1)

/-- The base address of a memory instruction, the value of `I` as a natural: adding an offset to it never wraps
(20_memory.md R62). -/
def State.base (s : State) : Nat := s.i.toNat

/-- The key index in a register, if there is such a key (43_keys_timers.md R180). -/
def keyIndex (b : Byte) : Option RegIdx :=
  if h : b.toNat < 16 then some ⟨b.toNat, h⟩ else none

/-- A key instruction: an index above 0x0F is the fault `KEY_OUT_OF_RANGE`, raised before the key is read (R180). -/
def State.withKey (s : State) (b : Byte) (effect : RegIdx → State → State) : Result :=
  match keyIndex b with
  | none => .next (s.raise .keyOutOfRange (zextByte b))
  | some k => .next (effect k s)

end Sys2Proof.Machine
end

