-- ==== Sys2Proof/Machine/Flow.lean ====
section
/-! DEFINITION. Control flow (spec 40_flow.md). In every meaning `s` is the state at handler entry: `pc = A + 2`. -/

namespace Sys2Proof.Machine

/-- `0NNN`, the unimplemented legacy call (R110). -/
def execSys (nnn : Addr) (s : State) : Result := .next (s.illegal .legacyCall (encode (.sys nnn)))

/-- `00EE`, return from subroutine (R111). -/
def execRet (s : State) : Result :=
  match s.stack.getLast? with
  | none => .next (s.raise .stackUnderflow 0)
  | some w => .next (s.dropTop.setPc w)

/-- `1NNN`, absolute jump (R112). -/
def execJp (nnn : Addr) (s : State) : Result := .next (s.setPc (zextAddr nnn))

/-- `2NNN`, call subroutine (R113). -/
def execCall (nnn : Addr) (s : State) : Result :=
  if Config.stackDepth ≤ s.stack.length then .next (s.raise .stackOverflow (zextAddr nnn))
  else .next ((s.push s.pc).setPc (zextAddr nnn))

/-- `3XNN`, skip if VX equals the byte (R114). -/
def execSeImm (x : RegIdx) (nn : Byte) (s : State) : Result := .next (s.skipIf (s.reg x == nn))

/-- `4XNN`, skip if VX differs from the byte (R115). -/
def execSneImm (x : RegIdx) (nn : Byte) (s : State) : Result := .next (s.skipIf (s.reg x != nn))

/-- `5XY0`, skip if VX equals VY (R116). -/
def execSeReg (x y : RegIdx) (s : State) : Result := .next (s.skipIf (s.reg x == s.reg y))

/-- `9XY0`, skip if VX differs from VY (R117). -/
def execSneReg (x y : RegIdx) (s : State) : Result := .next (s.skipIf (s.reg x != s.reg y))

/-- `BNNN`, jump to NNN plus V0 (R118). -/
def execJpV0 (nnn : Addr) (s : State) : Result := .next (s.setPc (offsetTarget nnn (s.reg 0)))

end Sys2Proof.Machine
end

