-- ==== Sys2Proof/Machine/Index.lean ====
section
/-! DEFINITION. Index register and memory instructions (spec 44_index_memory.md). -/

namespace Sys2Proof.Machine

/-- `ANNN` (R200). -/
def execLdI (nnn : Addr) (s : State) : Result := .next (s.setI (zextAddr nnn))

/-- `FX1E`, add VX to I with a 12-bit wrap; `VF` is written last (R201). -/
def execAddI (x : RegIdx) (s : State) : Result :=
  .next ((s.setI (indexAdd s.i (s.reg x))).setFlag (indexOverflow s.i (s.reg x)))

/-- `FX29`, point I at a font glyph (R202). -/
def execLdFont (x : RegIdx) (s : State) : Result := .next (s.setI (glyphAddr (s.reg x)))

/-- `FX33`, store the BCD digits of VX (R203). -/
def execBcd (x : RegIdx) (s : State) : Result :=
  s.withRange .write s.base 3 (fun s => s.setBytes s.base (bcdDigits (s.reg x)))

/-- `FX55`, store V0 to VX; I is unchanged (R204). -/
def execStore (x : RegIdx) (s : State) : Result :=
  s.withRange .write s.base (x.val + 1) (fun s => s.setBytes s.base (s.regsTo x))

/-- `FX65`, load V0 to VX; I is unchanged (R205). -/
def execLoad (x : RegIdx) (s : State) : Result :=
  s.withRange .read s.base (x.val + 1) (fun s => s.loadRegs s.base (x.val + 1))

end Sys2Proof.Machine
end

