-- ==== Sys2Proof/Machine/Keys.lean ====
section
/-! DEFINITION. Key and timer instructions (spec 43_keys_timers.md). -/

namespace Sys2Proof.Machine

/-- `EX9E`, skip if the key in VX is pressed (R181). -/
def execSkp (x : RegIdx) (s : State) : Result := s.withKey (s.reg x) (fun k s => s.skipIf s.key[k])

/-- `EXA1`, skip if the key in VX is not pressed (R182). -/
def execSknp (x : RegIdx) (s : State) : Result := s.withKey (s.reg x) (fun k s => s.skipIf (!s.key[k]))

/-- `FX07`, read the delay timer (R183). -/
def execLdVxDt (x : RegIdx) (s : State) : Result := .next (s.setReg x s.dt)

/-- `FX0A`, wait for a key press: the cycle's part; the key event resolves it (R184; Machine/Events.lean). -/
def execLdVxKey (x : RegIdx) (s : State) : Result := .next (s.await x)

/-- `FX15`, set the delay timer (R185). -/
def execLdDtVx (x : RegIdx) (s : State) : Result := .next (s.setDt (s.reg x))

/-- `FX18`, set the sound timer (R186). -/
def execLdStVx (x : RegIdx) (s : State) : Result := .next (s.setSt (s.reg x))

end Sys2Proof.Machine
end

