-- ==== Sys2Proof/Machine/Sprite.lean ====
section
/-! DEFINITION. The sprite unit, `00E0` and `DXYN` (spec 42_display.md). -/

namespace Sys2Proof.Machine

/-- The buffer being drawn into and whether the call has cleared a set pixel so far (R161). -/
structure Canvas where
  disp     : Display
  collided : Bool
deriving DecidableEq, Repr

/-- The body of the inner loop for one bit `b` at column `tx`, row `ty` (R161). -/
def Canvas.drawBit (c : Canvas) (tx : Fin 64) (ty : Fin 32) (b : Bool) : Canvas where
  disp := c.disp.set ty.val (c.disp[ty].set tx.val (c.disp[ty][tx] ^^ b) tx.isLt) ty.isLt
  collided := c.collided || (b && !(c.disp[ty][tx] ^^ b))

/-- The first `k` bits of a sprite byte, bit 7 first, at columns `(x + j) mod 64` of row `ty` (R161). -/
def Canvas.drawBits (c : Canvas) (x : Nat) (ty : Fin 32) (byte : Byte) : Nat → Canvas
  | 0 => c
  | j + 1 => (c.drawBits x ty byte j).drawBit (Fin.ofNat 64 (x + j)) ty (byte.getLsbD (7 - j))

/-- The rows of a sprite from row coordinate `y` down, each at row `y mod 32` (R161). -/
def Canvas.drawRows (x : Nat) : Canvas → Nat → List Byte → Canvas
  | c, _, [] => c
  | c, y, byte :: rows => Canvas.drawRows x (c.drawBits x (Fin.ofNat 32 y) byte 8) (y + 1) rows

/-- `drawSprite(x, y, bytes)` on a buffer: the new buffer and the collision bit (R161). Its `Frame` is emitted by
`execDrw`. -/
def drawSprite (d : Display) (x y : Byte) (bytes : List Byte) : Canvas :=
  Canvas.drawRows x.toNat { disp := d, collided := false } y.toNat bytes

/-- The clear buffer (R164). -/
def clearDisplay : Display := Vector.replicate 32 (Vector.replicate 64 false)

/-- `00E0`, clear the display (R164). -/
def execCls (s : State) : Result := .next ((s.setDisp clearDisplay).emit .clear)

/-- `DXYN` once its range check has passed: the rows are drawn, the `Frame` emitted, `VF` written last (R165). -/
def State.draw (s : State) (x y : RegIdx) (n : Nibble) : State :=
  let c := drawSprite s.disp (s.reg x) (s.reg y) (s.bytesAt s.base n.toNat)
  ((s.setDisp c.disp).emit (.frame c.disp)).setFlag c.collided

/-- `DXYN`, draw a sprite of N rows from memory at `I` (R165). With N = 0 nothing is checked, for `rangeFault` of no
address is no fault. -/
def execDrw (x y : RegIdx) (n : Nibble) (s : State) : Result :=
  s.withRange .read s.base n.toNat (fun s => s.draw x y n)

end Sys2Proof.Machine
end

