-- ==== Sys2Proof/Machine/Events.lean ====
section
/-! DEFINITION. The input events other than `cycle` (spec 60_exceptions.md R236 to R241, 70_reset_and_hazards.md R260 to
R262), and how the next event is taken from the state. -/

namespace Sys2Proof.Machine

/-- One count down, with a floor at 0 (R236). -/
def countDown (b : Byte) : Byte := if b.toNat > 0 then b - 1 else b

/-- `tick`: in `Ready` each counter counts down on its own; in any other state nothing happens (R236, R237). -/
def tick (s : State) : State :=
  match s.dstate with
  | .ready => (s.setDt (countDown s.dt)).setSt (countDown s.st)
  | .awaitingKey => s
  | .halted => s
  | .terminated => s

/-- `key[k] <- p` (R239). -/
def State.setKey (s : State) (k : RegIdx) (p : Bool) : State := { s with key := s.key.set k.val p k.isLt }

/-- A key press resolves the wait of `FX0A`: `key[k] <- pressed; V[wait_x] <- k; dstate <- Ready` (43_keys_timers.md
R184). -/
def State.resolveKey (s : State) (k : RegIdx) : State :=
  { (s.setKey k true).setReg s.waitX (BitVec.ofNat 8 k.val) with dstate := .ready }

/-- `key(k, p)` (R239). -/
def keyEvent (k : RegIdx) (p : Bool) (s : State) : State :=
  match s.dstate with
  | .ready => s.setKey k p
  | .awaitingKey => if p = true ∧ s.key[k] = false then s.resolveKey k else s.setKey k p
  | .halted => s
  | .terminated => s

/-- `quit`: `dstate <- Terminated` from any state, and nothing else (R240, R241). -/
def quit (s : State) : State := { s with dstate := .terminated }

/-- The state `reset` leaves before the ROM is copied (70_reset_and_hazards.md R261): every field the spec names at its
reset value; the model's own fields stay (log entry 7: reset emits no output, and the inputs are the host's). -/
def State.cleared (s : State) : State :=
  { State.reset with params := s.params, events := s.events, rndIn := s.rndIn, draws := s.draws, out := s.out }

/-- `reset(rom)`: everything is initialised, in every dispatcher state, and the ROM copied to 0x200 (R260, R261); a ROM
longer than 3584 bytes is refused (R262). -/
def resetEvent (rom : List Byte) (s : State) : Result :=
  if rom.length ≤ Config.maxRom then .next (s.cleared.setBytes Config.progBase rom)
  else .refused .romTooLong

/-! ## The input sequence (60_exceptions.md R235; log entry 4) -/

/-- The first event of a source. -/
def Source.next : Source → Event
  | .repeating e _ => e
  | .free n => Config.freeEvent n

/-- A source without its first event. -/
def Source.rest : Source → Source
  | .repeating e [] => .repeating e []
  | .repeating e (f :: es) => .repeating f (es ++ [e])
  | .free n => .free (n + 1)

/-- The first event of a sequence. -/
def EventStream.next (q : EventStream) : Event :=
  match q.listed with
  | [] => q.after.next
  | e :: _ => e

/-- A sequence without its first event. -/
def EventStream.rest (q : EventStream) : EventStream :=
  match q.listed with
  | [] => { q with after := q.after.rest }
  | _ :: es => { q with listed := es }

/-- A sequence without its first `n` events. -/
def EventStream.drop (q : EventStream) : Nat → EventStream
  | 0 => q
  | n + 1 => q.rest.drop n

/-- A sequence with events put before it. -/
def EventStream.prepend (q : EventStream) (es : List Event) : EventStream := { q with listed := es ++ q.listed }

/-- The event the step takes. -/
def State.nextEvent (s : State) : Event := s.events.next

/-- The state with that event taken from the sequence. -/
def State.takeEvent (s : State) : State := { s with events := s.events.rest }

end Sys2Proof.Machine
end

