-- ==== Sys2Proof/Machine/Cycle.lean ====
section
/-! DEFINITION. The fetch-decode-execute cycle (spec 30_encoding.md R90 to R92) and the event model (60_exceptions.md
R234). -/

namespace Sys2Proof.Machine

/-- The word at an address: the byte at the lower address is the high byte (20_memory.md R64). -/
def State.wordAt (s : State) (a : Nat) : Word := wordOfBytes (s.byteAt a) (s.byteAt (a + 1))

/-- A word of the `UNSUPPORTED` class at handler entry (60_exceptions.md R228). -/
def execUnsupported (op : Word) (s : State) : Result := .next (s.illegal .unsupportedOpcode op)

/-- A decoded word at handler entry (R90). -/
def execDecoded (d : Decoded) (s : State) : Result :=
  match d with
  | .instr i => exec i s
  | .unsupported op => execUnsupported op s

/-- `cycle` in `Ready` (R90): a fetch whose second byte lies at or above 0x1000 faults with pc unchanged; otherwise pc
advances before the handler runs. -/
def readyCycle (s : State) : Result :=
  if Config.memSize ≤ s.pc.toNat + 1 then .next (s.raiseAt s.pc .pcOutOfRange s.pc)
  else execDecoded (decode (s.wordAt s.pc.toNat)) s.advance

/-- `cycle` (R90 to R92): in any state but `Ready` it does nothing. -/
def cycle (s : State) : Result :=
  match s.dstate with
  | .ready => readyCycle s
  | .awaitingKey => .next s
  | .halted => .next s
  | .terminated => .next s

/-- One input event, applied in full (60_exceptions.md R234). -/
def applyEvent (e : Event) (s : State) : Result :=
  match e with
  | .reset rom => resetEvent rom s
  | .cycle => cycle s
  | .tick => .next (tick s)
  | .key k p => .next (keyEvent k p s)
  | .quit => .next (quit s)

/-! ## Placing a word where the next fetch reads it (log entry 12) -/

/-- Where the next fetch reads: `pc`, or the program base where a fetch from `pc` would be out of range. -/
def State.fetchAddr (s : State) : Word := if s.pc.toNat + 1 < Config.memSize then s.pc else 0x0200

/-- The sequence with a `cycle` in front, unless it is the one of cycles alone that reset state has. -/
def withCycleNext (q : EventStream) : EventStream :=
  if q = State.reset.events then q else q.prepend [.cycle]

/-- The state whose next step is a cycle that fetches the word `w`. -/
def State.placeWord (s : State) (w : Word) : State :=
  let t := s.setBytes s.fetchAddr.toNat [Word.hiByte w, Word.loByte w]
  { t with pc := s.fetchAddr, dstate := .ready, events := withCycleNext s.events }

end Sys2Proof.Machine
end

