-- ==== Sys2Proof/Machine/Step.lean ====
section
/-! DEFINITION. One step of the machine: the next input event, taken whole (spec 60_exceptions.md R234, R235). -/

namespace Sys2Proof.Machine

/-- One step: the next event of the input sequence is applied (log entry 4). -/
def step (s : State) : Host.Outcome State Fault Refusal := applyEvent s.nextEvent s.takeEvent

/-- `s` with the instruction word stored where the step fetches its next instruction (log entry 12). -/
def State.withFetchWord (s : State) (nbits w : Nat) : State := s.placeWord (tableWord nbits w)

end Sys2Proof.Machine
end

