-- ==== Sys2Proof/Safety.lean ====
section
/-! DEFINITION. What claims call a well-kept state, a fault and the end of a run (spec 10_state.md R26, R30, R32, R42;
20_memory.md R63; 60_exceptions.md R223, R242). -/

namespace Sys2Proof.Machine

/-- The invariant every step keeps. -/
structure State.Inv (s : State) : Prop where
  /-- Memory is in its canonical form, inside the 4096-byte space (20_memory.md R60). -/
  memory : Memory.wf (initByte s.params) s.mem
  /-- No cell of the font differs from `FONT` (R63, R68). -/
  font : ∀ c ∈ s.mem, Config.fontEnd ≤ c.1
  /-- `I` holds a 12-bit address at every instruction boundary (R26). -/
  index : s.i.toNat ≤ 0xFFF
  /-- The largest value any rule writes into pc is 0x10FE (R30, R42). -/
  pc : s.pc.toNat ≤ 0x10FE
  /-- The stack's length never exceeds 16 (R32). -/
  depth : s.stack.length ≤ Config.stackDepth
  /-- Every pushed value is at most 0x1000 (R42). -/
  entries : ∀ w ∈ s.stack, w.toNat ≤ 0x1000
  /-- `FSR.cause` is one of the codes 0 to 8 (60_exceptions.md R221). -/
  cause : s.fsr.cause.toNat ≤ 8
  /-- Only a fault writes `FSR`, and a core that faulted runs no more until reset (R41, R224). -/
  running : s.dstate = .ready ∨ s.dstate = .awaitingKey → s.fsr = { cause := 0, fpc := 0, info := 0 }
  /-- A halted core's `FSR` names the fault that halted it (R41, R242). -/
  halted : s.dstate = .halted → s.fsr.cause ≠ 0

/-- The state the fault `c` with value `info` leaves when the instruction fetched from `a` raises it: `FSR` written, the
report emitted, the dispatcher halted, everything else as it was (R223). -/
def State.faulted (s : State) (a : Word) (c : BitVec 4) (info : Word) : State :=
  { s with fsr := { cause := c, fpc := a, info := info }, out := s.out ++ [.report c a info], dstate := .halted }

/-- How a run stands (R242). -/
inductive RunEnd where
  /-- In `Ready` or `AwaitingKey`: the run has not ended (one that stays so forever is a hang). -/
  | running
  /-- `Halted`: the run failed, and the cause says why. -/
  | failed (cause : BitVec 4)
  /-- `Terminated` with cause 0: the run ended cleanly by request. -/
  | clean
  /-- `Terminated` with another cause: the run failed earlier and was then quit. -/
  | failedThenQuit (cause : BitVec 4)
deriving DecidableEq, Repr

/-- How the run that reached this state stands (R242). -/
def State.runEnd (s : State) : RunEnd :=
  match s.dstate with
  | .ready => .running
  | .awaitingKey => .running
  | .halted => .failed s.fsr.cause
  | .terminated => if s.fsr.cause = 0 then .clean else .failedThenQuit s.fsr.cause

/-- A safe run's states: well kept, and not failed. -/
def State.Safe (s : State) : Prop := s.Inv ∧ (s.runEnd = .running ∨ s.runEnd = .clean)

end Sys2Proof.Machine
end

