-- ==== Sys2Proof/Certificates/Slice0/Obligations.lean ====
section
/-! DEFINITION. The statements for the provers, from the spec's numbered rules. A handler's state `s` has `pc = A + 2`
(10_state.md R27), so `s.pc - 2` is the address A the instruction was fetched from. `t = { s with v := t.v }` says that
every field of the state but `v` is as it was, memory, pc, display and outputs among them. -/

namespace Sys2Proof.Claims

open Sys2Proof.Machine

/-- Only register `x` changed; it holds `b`. -/
def WritesReg (s t : State) (x : RegIdx) (b : Byte) : Prop :=
  t = { s with v := t.v } ∧ t.reg x = b ∧ ∀ r, r ≠ x → t.reg r = s.reg r

/-- Only register `x` and `VF` changed: `VF` holds 1 if the condition holds, else 0, and `x`, unless it is `VF`, the
number `r` (41_alu.md R130). -/
def WritesRegFlag (s t : State) (x : RegIdx) (r : Nat) (flag : Prop) : Prop :=
  t = { s with v := t.v } ∧ (flag → t.reg vF = 1) ∧ (¬ flag → t.reg vF = 0) ∧ (x ≠ vF → (t.reg x).toNat = r) ∧
    ∀ k, k ≠ x → k ≠ vF → t.reg k = s.reg k

/-- The word a fetch from `a` reads: `memory[a]<<8 | memory[a+1]` (30_encoding.md R90). -/
def fetched (s : State) (a : Nat) : Word :=
  (s.byteAt a).setWidth 16 <<< 8 ||| (s.byteAt (a + 1)).setWidth 16

/-- The instruction's own fault, its cause code and `info`, at handler entry (60_exceptions.md R221). -/
def faultOf (i : Instr) (s : State) : Option (BitVec 4 × Nat) :=
  match i with
  | .call nnn => if 16 ≤ s.stack.length then some (2, nnn.toNat) else none
  | .ret => if s.stack = [] then some (3, 0) else none
  | .sys nnn => if s.params.illegalPolicy = .halts then some (5, nnn.toNat) else none
  | .skp x => if 0x0F < (s.reg x).toNat then some (8, (s.reg x).toNat) else none
  | .sknp x => if 0x0F < (s.reg x).toNat then some (8, (s.reg x).toNat) else none
  | .drw _ _ n =>
    if 0 < n.toNat ∧ 0x1000 < s.i.toNat + n.toNat then some (6, max s.i.toNat 0x1000) else none
  | .bcd _ =>
    if s.i.toNat < 0x050 then some (7, s.i.toNat)
    else if 0x1000 < s.i.toNat + 3 then some (6, max s.i.toNat 0x1000) else none
  | .store x =>
    if s.i.toNat < 0x050 then some (7, s.i.toNat)
    else if 0x1000 < s.i.toNat + x.val + 1 then some (6, max s.i.toNat 0x1000) else none
  | .load x => if 0x1000 < s.i.toNat + x.val + 1 then some (6, max s.i.toNat 0x1000) else none
  | _ => none

/-- The fault of a cycle in `Ready`, in the order of priority of R229: the fetch, the word class, the instruction's own
check. -/
def cycleFault (s : State) : Option (BitVec 4 × Nat) :=
  if 0x1000 ≤ s.pc.toNat + 1 then some (1, s.pc.toNat)
  else
    match decode (fetched s s.pc.toNat) with
    | .unsupported op => if s.params.illegalPolicy = .halts then some (4, op.toNat) else none
    | .instr i => faultOf i s

/-- The pc after an instruction that raises no fault, fetched from `s.pc` (10_state.md R28). -/
def pcAfter (i : Instr) (s : State) : Word :=
  match i with
  | .jp nnn => nnn.setWidth 16
  | .call nnn => nnn.setWidth 16
  | .ret => s.stack.getLast?.getD 0
  | .jpV0 nnn => BitVec.ofNat 16 (nnn.toNat + (s.reg 0).toNat)
  | .seImm x nn => if s.reg x = nn then s.pc + 4 else s.pc + 2
  | .sneImm x nn => if s.reg x ≠ nn then s.pc + 4 else s.pc + 2
  | .seReg x y => if s.reg x = s.reg y then s.pc + 4 else s.pc + 2
  | .sneReg x y => if s.reg x ≠ s.reg y then s.pc + 4 else s.pc + 2
  | .skp x => if s.key[(s.reg x).toNat]? = some true then s.pc + 4 else s.pc + 2
  | .sknp x => if s.key[(s.reg x).toNat]? = some false then s.pc + 4 else s.pc + 2
  | _ => s.pc + 2

/-- The registers an instruction may write (10_state.md R23); `FX0A` writes `VX` only when the wait resolves. -/
def mayWrite (i : Instr) (r : RegIdx) : Prop :=
  match i with
  | .ldImm x _ => r = x
  | .addImm x _ => r = x
  | .ldReg x _ => r = x
  | .orReg x _ => r = x
  | .andReg x _ => r = x
  | .xorReg x _ => r = x
  | .addReg x _ => r = x ∨ r = vF
  | .subReg x _ => r = x ∨ r = vF
  | .shr x _ => r = x ∨ r = vF
  | .subnReg x _ => r = x ∨ r = vF
  | .shl x _ => r = x ∨ r = vF
  | .rnd x _ => r = x
  | .ldVxDt x => r = x
  | .load x => r.val ≤ x.val
  | .drw _ _ _ => r = vF
  | .addI _ => r = vF
  | _ => False

/-- The addresses an instruction may store to: `FX33` to I, I+1, I+2 and `FX55` to I … I+X (20_memory.md R60). -/
def mayStore (i : Instr) (s : State) (a : Nat) : Prop :=
  match i with
  | .bcd _ => s.i.toNat ≤ a ∧ a < s.i.toNat + 3
  | .store x => s.i.toNat ≤ a ∧ a ≤ s.i.toNat + x.val
  | _ => False

/-- Pixel column `px`, row `py` lies under a 1 bit of the sprite `DXYN` draws (42_display.md R161). -/
def Covered (s : State) (x y : RegIdx) (n : Nibble) (py : Fin 32) (px : Fin 64) : Prop :=
  ∃ i j, i < n.toNat ∧ j < 8 ∧ ((s.reg y).toNat + i) % 32 = py.val ∧ ((s.reg x).toNat + j) % 64 = px.val ∧
    (s.byteAt (s.i.toNat + i)).getLsbD (7 - j) = true

/-- Pixel column `px`, row `py` lies under a 1 bit of the sprite `rows` at (x, y) (42_display.md R161). -/
def Under (x y : Byte) (rows : List Byte) (py : Fin 32) (px : Fin 64) : Prop :=
  ∃ i j, ∃ h : i < rows.length, j < 8 ∧ (y.toNat + i) % 32 = py.val ∧ (x.toNat + j) % 64 = px.val ∧
    rows[i].getLsbD (7 - j) = true

/-- The event occurs infinitely often in the sequence (the fairness of 60_exceptions.md R235). -/
def RecursIn (q : EventStream) (e : Event) : Prop := ∀ n, ∃ m, n ≤ m ∧ (q.drop m).next = e

end Sys2Proof.Claims

open Sys2Proof Sys2Proof.Machine Sys2Proof.Claims

/-! ## Encoding and decoding -/

/-- 30_encoding.md R85 to R89: words written out from the spec's patterns, and the vectors E3 to E9. -/
def Obligations.SampleWordsDecodeAsThePatternsSay : Prop :=
  decode 0x00E0#16 = .instr .cls ∧ decode 0x00EE#16 = .instr .ret ∧ decode 0x00E1#16 = .instr (.sys 0x0E1) ∧
  decode 0x1ABC#16 = .instr (.jp 0xABC) ∧ decode 0x3542#16 = .instr (.seImm 5 0x42) ∧
  decode 0x9120#16 = .instr (.sneReg 1 2) ∧ decode 0x8F2E#16 = .instr (.shl 15 2) ∧
  decode 0xC50F#16 = .instr (.rnd 5 0x0F) ∧ decode 0xD125#16 = .instr (.drw 1 2 5) ∧
  decode 0xE5A1#16 = .instr (.sknp 5) ∧ decode 0xF40A#16 = .instr (.ldVxKey 4) ∧
  decode 0xF255#16 = .instr (.store 2) ∧ decode 0x5121#16 = .unsupported 0x5121 ∧
  decode 0x8008#16 = .unsupported 0x8008 ∧ decode 0xE5A0#16 = .unsupported 0xE5A0 ∧
  decode 0xF5FF#16 = .unsupported 0xF5FF

/-- 30_encoding.md R81 to R89: no operand bit is dropped on the way through the encoding; the bytes stand high byte
first (20_memory.md R64), and the decoder hands back what follows them. -/
def Obligations.DecodingAnEncodedInstructionGivesItBack : Prop :=
  ∀ i : Instr, i.wf = true →
    decode (encode i) = .instr i ∧ ∀ rest, decodeBytes (encodeBytes i ++ rest) = .ok (i, rest)

/-- 30_encoding.md R84: a word decodes to one instruction only, so encoding what was decoded gives the word back. -/
def Obligations.EncodingADecodedWordGivesItBack : Prop :=
  ∀ (op : Word) (i : Instr), decode op = .instr i → i.wf = true ∧ encode i = op

/-- 30_encoding.md R86 to R89: which words are the legacy call and which are `UNSUPPORTED`. -/
def Obligations.LegacyAndUnsupportedWordsAreTheListedOnes : Prop :=
  ∀ op : Word,
    let f := op.extractLsb' 12 4
    let n := op.extractLsb' 0 4
    let k := op.extractLsb' 0 8
    ((∃ nnn, decode op = .instr (.sys nnn)) ↔ f = 0x0 ∧ op ≠ 0x00E0 ∧ op ≠ 0x00EE) ∧
    ((∃ w, decode op = .unsupported w) ↔
      ((f = 0x5 ∨ f = 0x9) ∧ n ≠ 0) ∨
      (f = 0x8 ∧ (n = 0x8 ∨ n = 0x9 ∨ n = 0xA ∨ n = 0xB ∨ n = 0xC ∨ n = 0xD ∨ n = 0xF)) ∨
      (f = 0xE ∧ k ≠ 0x9E ∧ k ≠ 0xA1) ∨
      (f = 0xF ∧ k ≠ 0x07 ∧ k ≠ 0x0A ∧ k ≠ 0x15 ∧ k ≠ 0x18 ∧ k ≠ 0x1E ∧ k ≠ 0x29 ∧ k ≠ 0x33 ∧ k ≠ 0x55 ∧
        k ≠ 0x65)) ∧
    ∀ w, decode op = .unsupported w → w = op

/-! ## Reset and the invariant -/

/-- 10_state.md R45, with an empty ROM and the parameters at their defaults, which are log entries 2 and 3. -/
def Obligations.ResetStateHoldsTheListedValues : Prop :=
  (∀ (a : Nat) (h : a < 80), State.reset.byteAt a = State.reset.params.font[a]) ∧
  (∀ a, 80 ≤ a → State.reset.byteAt a = 0x00) ∧
  (∀ x, State.reset.reg x = 0x00) ∧ State.reset.i = 0x0000 ∧ State.reset.pc = 0x0200 ∧ State.reset.stack = [] ∧
  State.reset.dt = 0x00 ∧ State.reset.st = 0x00 ∧ (∀ k : RegIdx, State.reset.key[k] = false) ∧
  (∀ (y : Fin 32) (x : Fin 64), State.reset.disp[y][x] = false) ∧ State.reset.dstate = .ready ∧
  State.reset.waitX = 0 ∧ State.reset.fsr = { cause := 0, fpc := 0, info := 0 }

/-- The invariant of Safety.lean holds right after reset. -/
def Obligations.InvariantHoldsAtReset : Prop := State.reset.Inv

/-- Every step, of every event, keeps the invariant: memory canonical and the font as `FONT` gives it (20_memory.md R60,
R63), `I` a 12-bit address (10_state.md R26), pc at most 0x10FE (R30), at most 16 stack entries, each at most 0x1000
(R32, R42), `FSR` a known cause, zero while the core runs and not zero once it has halted (R41). -/
def Obligations.EveryStepKeepsTheInvariant : Prop :=
  ∀ s t : State, s.Inv → step s = .next t → t.Inv

/-- 20_memory.md R63, R68: no step changes what the font region reads as, nor the parameters. -/
def Obligations.NoStepChangesTheFont : Prop :=
  ∀ s t : State, s.Inv → step s = .next t →
    (∀ a, a < 0x050 → t.byteAt a = s.byteAt a) ∧ (∀ (a : Nat) (h : a < 80), t.byteAt a = s.params.font[a]) ∧
      t.params = s.params

/-! ## The cycle -/

/-- 30_encoding.md R90: a `cycle` in `Ready` fetches, advances pc and runs the word. -/
def Obligations.ReadyCycleFetchesAdvancesAndRuns : Prop :=
  ∀ s : State, s.nextEvent = .cycle → s.dstate = .ready →
    (0x1000 ≤ s.pc.toNat + 1 → step s = .next ({ s with events := s.events.rest }.faulted s.pc 1 s.pc)) ∧
    (s.pc.toNat + 1 < 0x1000 →
      (∀ i, decode (fetched s s.pc.toNat) = .instr i →
        step s = exec i { s with pc := s.pc + 2, events := s.events.rest }) ∧
      (∀ op, decode (fetched s s.pc.toNat) = .unsupported op → s.params.illegalPolicy = .continues →
        step s = .next { s with
          pc := s.pc + 2, events := s.events.rest, out := s.out ++ [.report 4 s.pc op] }) ∧
      (∀ op, decode (fetched s s.pc.toNat) = .unsupported op → s.params.illegalPolicy = .halts →
        step s = .next ({ s with pc := s.pc + 2, events := s.events.rest }.faulted s.pc 4 op)))

/-- 30_encoding.md R91, R92: a `cycle` in any other dispatcher state changes nothing. -/
def Obligations.CycleOutsideReadyDoesNothing : Prop :=
  ∀ s : State, s.nextEvent = .cycle → s.dstate ≠ .ready → step s = .next { s with events := s.events.rest }

/-- 60_exceptions.md R228: what `ILLEGAL_POLICY` makes of a legacy and of an unsupported word. -/
def Obligations.IllegalWordsFollowThePolicy : Prop :=
  ∀ (s : State) (op : Word) (c : BitVec 4), s.nextEvent = .cycle → s.dstate = .ready → s.pc.toNat + 1 < 0x1000 →
    fetched s s.pc.toNat = op →
    ((∃ nnn, decode op = .instr (.sys nnn)) ∧ c = 5 ∨ decode op = .unsupported op ∧ c = 4) →
      (s.params.illegalPolicy = .continues →
        step s = .next { s with
          pc := s.pc + 2, events := s.events.rest, out := s.out ++ [.report c s.pc op] }) ∧
      (s.params.illegalPolicy = .halts →
        step s = .next ({ s with pc := s.pc + 2, events := s.events.rest }.faulted s.pc c op))

/-- 10_state.md R28: the pc after every cycle in `Ready`. -/
def Obligations.PcAfterACycleIsTheTablesOne : Prop :=
  ∀ s : State, s.nextEvent = .cycle → s.dstate = .ready →
    ∃ t, step s = .next t ∧
      (0x1000 ≤ s.pc.toNat + 1 → t.pc = s.pc) ∧
      (s.pc.toNat + 1 < 0x1000 → t.dstate = .halted → t.pc = s.pc + 2) ∧
      (s.pc.toNat + 1 < 0x1000 → t.dstate ≠ .halted →
        (∀ op, decode (fetched s s.pc.toNat) = .unsupported op → t.pc = s.pc + 2) ∧
        (∀ i, decode (fetched s s.pc.toNat) = .instr i → t.pc = pcAfter i s) ∧
        (∀ x, decode (fetched s s.pc.toNat) = .instr (.ldVxKey x) → t.dstate = .awaitingKey))

/-! ## Faults -/

/-- 60_exceptions.md R223: whatever raises a fault leaves exactly the state after the fetch with `FSR` written, the
report emitted and the dispatcher halted. -/
def Obligations.FaultsArePrecise : Prop :=
  ∀ s t : State, step s = .next t → t.dstate = .halted → s.dstate ≠ .halted →
    s.nextEvent = .cycle ∧ s.dstate = .ready ∧
    ∃ (c : BitVec 4) (info : Word), c ≠ 0 ∧
      t = { s with
        pc := if 0x1000 ≤ s.pc.toNat + 1 then s.pc else s.pc + 2
        events := s.events.rest }.faulted s.pc c info

/-- 60_exceptions.md R221, in the order of R229: which cause a cycle raises, with which `info`; which words are reported
without a fault; and that no other instruction raises or reports anything. -/
def Obligations.CyclesFaultExactlyForTheListedCauses : Prop :=
  ∀ s : State, s.nextEvent = .cycle → s.dstate = .ready →
    (∀ c info, cycleFault s = some (c, info) →
      ∃ t, step s = .next t ∧ t.dstate = .halted ∧ t.fsr = { cause := c, fpc := s.pc, info := BitVec.ofNat 16 info } ∧
        t.out = s.out ++ [.report c s.pc (BitVec.ofNat 16 info)]) ∧
    (cycleFault s = none → ∃ t, step s = .next t ∧ t.dstate ≠ .halted ∧ t.fsr = s.fsr ∧
      (∀ op, decode (fetched s s.pc.toNat) = .unsupported op → t.out = s.out ++ [.report 4 s.pc op]) ∧
      (∀ nnn, decode (fetched s s.pc.toNat) = .instr (.sys nnn) →
        t.out = s.out ++ [.report 5 s.pc (fetched s s.pc.toNat)]) ∧
      (∀ i, decode (fetched s s.pc.toNat) = .instr i → (∀ nnn, i ≠ .sys nnn) →
        ∀ c a info, t.out ≠ s.out ++ [.report c a info]))

/-- 60_exceptions.md R224: `Halted` is terminal for execution. -/
def Obligations.HaltedIsLeftOnlyByQuitAndReset : Prop :=
  ∀ s : State, s.dstate = .halted →
    (s.nextEvent = .cycle → step s = .next { s with events := s.events.rest }) ∧
    (s.nextEvent = .tick → step s = .next { s with events := s.events.rest }) ∧
    (∀ k p, s.nextEvent = .key k p → step s = .next { s with events := s.events.rest }) ∧
    (s.nextEvent = .quit → step s = .next { s with dstate := .terminated, events := s.events.rest }) ∧
    (∀ rom, s.nextEvent = .reset rom → rom.length ≤ 3584 → ∃ t, step s = .next t ∧ t.dstate = .ready) ∧
    ∀ t, step s = .next t → (∀ rom, s.nextEvent ≠ .reset rom) → t.fsr = s.fsr

/-- 10_state.md R41: only a fault writes `FSR`, and only reset clears it. -/
def Obligations.FsrIsWrittenByFaultsAndClearedByReset : Prop :=
  ∀ s t : State, step s = .next t → t.fsr ≠ s.fsr →
    (s.nextEvent = .cycle ∧ s.dstate = .ready ∧ t.dstate = .halted ∧ t.fsr.cause ≠ 0 ∧ t.fsr.fpc = s.pc) ∨
    (∃ rom, s.nextEvent = .reset rom ∧ t.fsr = { cause := 0, fpc := 0, info := 0 })

/-- 30_encoding.md R93: every change of the dispatcher's state is one of the listed transitions, and each listed
transition happens. -/
def Obligations.DispatcherTransitionsAreTheListedOnes : Prop :=
  (∀ s t : State, step s = .next t → t.dstate ≠ s.dstate →
    (s.dstate = .ready ∧ t.dstate = .awaitingKey ∧ s.nextEvent = .cycle ∧
      ∃ x, decode (fetched s s.pc.toNat) = .instr (.ldVxKey x) ∧ t.waitX = x) ∨
    (s.dstate = .awaitingKey ∧ t.dstate = .ready ∧ ∃ k : RegIdx, s.nextEvent = .key k true ∧ s.key[k] = false) ∨
    (s.dstate = .ready ∧ t.dstate = .halted ∧ s.nextEvent = .cycle ∧ t.fsr.cause ≠ 0) ∨
    (t.dstate = .terminated ∧ s.nextEvent = .quit) ∨
    (t.dstate = .ready ∧ ∃ rom, s.nextEvent = .reset rom)) ∧
  ∀ s : State,
    (∀ x, s.nextEvent = .cycle → s.dstate = .ready → s.pc.toNat + 1 < 0x1000 →
      decode (fetched s s.pc.toNat) = .instr (.ldVxKey x) →
        ∃ t, step s = .next t ∧ t.dstate = .awaitingKey ∧ t.waitX = x) ∧
    (∀ k : RegIdx, s.nextEvent = .key k true → s.dstate = .awaitingKey → s.key[k] = false →
      ∃ t, step s = .next t ∧ t.dstate = .ready) ∧
    (s.nextEvent = .cycle → s.dstate = .ready → cycleFault s ≠ none → ∃ t, step s = .next t ∧ t.dstate = .halted) ∧
    (s.nextEvent = .quit → ∃ t, step s = .next t ∧ t.dstate = .terminated) ∧
    (∀ rom, s.nextEvent = .reset rom → rom.length ≤ 3584 → ∃ t, step s = .next t ∧ t.dstate = .ready)

/-! ## Events -/

/-- 60_exceptions.md R237, with the tick of R236 in `Ready`. -/
def Obligations.TickCountsDownInReadyOnly : Prop :=
  ∀ s : State, s.nextEvent = .tick →
    (s.dstate = .ready → ∃ t, step s = .next t ∧ t = { s with dt := t.dt, st := t.st, events := s.events.rest } ∧
      (0 < s.dt.toNat → t.dt.toNat = s.dt.toNat - 1) ∧ (s.dt = 0 → t.dt = 0) ∧
      (0 < s.st.toNat → t.st.toNat = s.st.toNat - 1) ∧ (s.st = 0 → t.st = 0)) ∧
    (s.dstate ≠ .ready → step s = .next { s with events := s.events.rest })

/-- 60_exceptions.md R236: after N ticks each counter is max(0, its start - N), and nothing was emitted. -/
def Obligations.TicksLowerEachTimerToAFloorOfZero : Prop :=
  ∀ (n : Nat) (s : State) (rest : EventStream), s.dstate = .ready →
    s.events = rest.prepend (List.replicate n .tick) →
    ∃ t : State, Host.Core.run Sys2Proof.core n s = .next t ∧
      t = { s with dt := t.dt, st := t.st, events := rest } ∧
      t.dt.toNat = max 0 (s.dt.toNat - n) ∧ t.st.toNat = max 0 (s.st.toNat - n)

/-- 60_exceptions.md R239: the key events, by dispatcher state. -/
def Obligations.KeyEventsSetKeysAndResolveTheWait : Prop :=
  ∀ (s : State) (k : RegIdx) (p : Bool), s.nextEvent = .key k p →
    (s.dstate = .ready ∨ s.dstate = .awaitingKey ∧ ¬ (p = true ∧ s.key[k] = false) →
      ∃ t, step s = .next t ∧ t = { s with key := t.key, events := s.events.rest } ∧ t.key[k] = p ∧
        ∀ j : RegIdx, j ≠ k → t.key[j] = s.key[j]) ∧
    (s.dstate = .awaitingKey → p = true → s.key[k] = false →
      ∃ t, step s = .next t ∧
        t = { s with key := t.key, v := t.v, dstate := .ready, events := s.events.rest } ∧ t.key[k] = true ∧
        (∀ j : RegIdx, j ≠ k → t.key[j] = s.key[j]) ∧ (t.reg s.waitX).toNat = k.val ∧
        ∀ r, r ≠ s.waitX → t.reg r = s.reg r) ∧
    (s.dstate = .halted ∨ s.dstate = .terminated → step s = .next { s with events := s.events.rest })

/-- 60_exceptions.md R241: `quit` sets `Terminated` from any state and changes nothing else; after it only `reset` has an
effect. -/
def Obligations.QuitTerminatesFromEveryState : Prop :=
  ∀ s : State,
    (s.nextEvent = .quit → step s = .next { s with dstate := .terminated, events := s.events.rest }) ∧
    (s.dstate = .terminated → (∀ rom, s.nextEvent ≠ .reset rom) → step s = .next { s with events := s.events.rest })

/-- 70_reset_and_hazards.md R261, R262: what `reset(rom)` leaves, from every state. The fields that are the model's own
stay (log entry 7). -/
def Obligations.ResetEventInitialisesEverything : Prop :=
  ∀ (s : State) (rom : List Byte), s.nextEvent = .reset rom →
    (rom.length ≤ 3584 → ∃ t, step s = .next t ∧
      (∀ (k : Nat) (h : k < rom.length), t.byteAt (0x200 + k) = rom[k]) ∧
      (∀ (a : Nat) (h : a < 80), t.byteAt a = s.params.font[a]) ∧
      (∀ a, 80 ≤ a → a < 0x200 ∨ 0x200 + rom.length ≤ a → t.byteAt a = (cellAt s.params.memInit a).getD 0x00) ∧
      (∀ x, t.reg x = 0x00) ∧ t.i = 0x0000 ∧ t.pc = 0x0200 ∧ t.stack = [] ∧ t.dt = 0x00 ∧ t.st = 0x00 ∧
      (∀ k : RegIdx, t.key[k] = false) ∧ (∀ (y : Fin 32) (x : Fin 64), t.disp[y][x] = false) ∧ t.waitX = 0 ∧
      t.fsr = { cause := 0, fpc := 0, info := 0 } ∧ t.dstate = .ready ∧
      t.params = s.params ∧ t.out = s.out ∧ t.events = s.events.rest ∧ t.rndIn = s.rndIn ∧ t.draws = s.draws) ∧
    (3584 < rom.length → step s = .refused .romTooLong)

/-- 42_display.md R163, 10_state.md R49: a step emits at most one output event, only a cycle in `Ready` emits, and each
event comes from the instruction, the reported word or the fault that R49 names. -/
def Obligations.OutputsComeOnlyFromTheirInstructions : Prop :=
  ∀ s t : State, step s = .next t →
    t.out = s.out ∨
    ∃ e, t.out = s.out ++ [e] ∧ s.nextEvent = .cycle ∧ s.dstate = .ready ∧
      (e = .clear → decode (fetched s s.pc.toNat) = .instr .cls) ∧
      (∀ d, e = .frame d → d = t.disp ∧ t.dstate = .ready ∧
        ∃ x y n, decode (fetched s s.pc.toNat) = .instr (.drw x y n)) ∧
      (∀ c a info, e = .report c a info → a = s.pc ∧ c ≠ 0 ∧
        (t.dstate = .halted ∧ t.fsr = { cause := c, fpc := a, info := info } ∧
            (∃ b, cycleFault s = some (c, b) ∧ info = BitVec.ofNat 16 b) ∨
          t.dstate = .ready ∧ t.fsr = s.fsr ∧ info = fetched s s.pc.toNat ∧
            (c = 4 ∧ decode (fetched s s.pc.toNat) = .unsupported info ∨
              c = 5 ∧ ∃ nnn, decode (fetched s s.pc.toNat) = .instr (.sys nnn))))

/-! ## Frames over every instruction -/

/-- 10_state.md R23: an instruction leaves every V register but those the rule lists for it. -/
def Obligations.InstructionsWriteOnlyTheirRegisters : Prop :=
  ∀ (i : Instr) (s t : State) (r : RegIdx), exec i s = .next t → ¬ mayWrite i r → t.reg r = s.reg r

/-- 20_memory.md R60: every byte outside the addresses an instruction stores to reads as before, all of memory for an
instruction that stores nothing or that faults. -/
def Obligations.InstructionsStoreOnlyAtTheirAddresses : Prop :=
  ∀ (i : Instr) (s t : State) (a : Nat), exec i s = .next t → ¬ mayStore i s a ∨ t.dstate = .halted ∧ s.dstate ≠ .halted →
    t.byteAt a = s.byteAt a

/-- 10_state.md R42: the state that is no V register and no memory is written by the listed instructions alone. -/
def Obligations.InstructionsLeaveTheOtherStateAlone : Prop :=
  ∀ (i : Instr) (s t : State), exec i s = .next t →
    ((∀ a, i ≠ .ldI a) → (∀ x, i ≠ .addI x) → (∀ x, i ≠ .ldFont x) → t.i = s.i) ∧
    ((∀ a, i ≠ .call a) → i ≠ .ret → t.stack = s.stack) ∧
    ((∀ x, i ≠ .ldDtVx x) → t.dt = s.dt) ∧
    ((∀ x, i ≠ .ldStVx x) → t.st = s.st) ∧
    (i ≠ .cls → (∀ x y n, i ≠ .drw x y n) → t.disp = s.disp) ∧
    ((∀ x, i ≠ .ldVxKey x) → t.waitX = s.waitX ∧ (t.dstate = s.dstate ∨ t.dstate = .halted)) ∧
    (t.dstate ≠ .halted → t.fsr = s.fsr) ∧
    ((∀ x nn, i ≠ .rnd x nn) → t.rndIn = s.rndIn ∧ t.draws = s.draws) ∧
    t.key = s.key ∧ t.params = s.params ∧ t.events = s.events

/-- 10_state.md R48: the `rnd` input is sampled by `CXNN` only. -/
def Obligations.OnlyTheRandomInstructionReadsTheRandomInput : Prop :=
  ∀ (i : Instr) (s t : State) (q : List Byte) (d : Nat), (∀ x nn, i ≠ .rnd x nn) → exec i s = .next t →
    exec i { s with rndIn := q, draws := d } = .next { t with rndIn := q, draws := d }

/-- 00_scope.md R6: no rule depends on `CYCLE_HZ` or `TICK_HZ`. -/
def Obligations.NoStepReadsTheNominalRates : Prop :=
  ∀ (s : State) (c h : Nat),
    (∀ t, step s = .next t → step { s with params := { s.params with cycleHz := c, tickHz := h } } =
      .next { t with params := { t.params with cycleHz := c, tickHz := h } }) ∧
    (∀ r, step s = .refused r →
      step { s with params := { s.params with cycleHz := c, tickHz := h } } = .refused r)

/-! ## Register loads and ALU (41_alu.md) -/

/-- R131, R132. -/
def Obligations.ByteLoadAndByteAdd : Prop :=
  (∀ op : Word, Word.family op = 0x6 → decode op = .instr (.ldImm (Word.x op) (Word.nn op))) ∧
  (∀ op : Word, Word.family op = 0x7 → decode op = .instr (.addImm (Word.x op) (Word.nn op))) ∧
  ∀ (x : RegIdx) (nn : Byte) (s : State),
    (∃ t, exec (.ldImm x nn) s = .next t ∧ WritesReg s t x nn) ∧
    (∃ t, exec (.addImm x nn) s = .next t ∧
      WritesReg s t x (BitVec.ofNat 8 (((s.reg x).toNat + nn.toNat) % 256)))

/-- R133 to R136: copy, or, and, xor; `VF` is written only as the destination. -/
def Obligations.CopyAndLogicWriteOnlyTheDestination : Prop :=
  (∀ op : Word, Word.family op = 0x8 →
    (Word.n op = 0x0 → decode op = .instr (.ldReg (Word.x op) (Word.y op))) ∧
    (Word.n op = 0x1 → decode op = .instr (.orReg (Word.x op) (Word.y op))) ∧
    (Word.n op = 0x2 → decode op = .instr (.andReg (Word.x op) (Word.y op))) ∧
    (Word.n op = 0x3 → decode op = .instr (.xorReg (Word.x op) (Word.y op)))) ∧
  ∀ (x y : RegIdx) (s : State),
    (∃ t, exec (.ldReg x y) s = .next t ∧ WritesReg s t x (s.reg y)) ∧
    (∃ t, exec (.orReg x y) s = .next t ∧ WritesReg s t x (s.reg x ||| s.reg y)) ∧
    (∃ t, exec (.andReg x y) s = .next t ∧ WritesReg s t x (s.reg x &&& s.reg y)) ∧
    (∃ t, exec (.xorReg x y) s = .next t ∧ WritesReg s t x (s.reg x ^^^ s.reg y))

/-- R137. -/
def Obligations.AddWithCarry : Prop :=
  (∀ op : Word, Word.family op = 0x8 → Word.n op = 0x4 → decode op = .instr (.addReg (Word.x op) (Word.y op))) ∧
  ∀ (x y : RegIdx) (s : State), ∃ t, exec (.addReg x y) s = .next t ∧
    WritesRegFlag s t x (((s.reg x).toNat + (s.reg y).toNat) % 256) (255 < (s.reg x).toNat + (s.reg y).toNat)

/-- R138, R140: the flag is 1 when there is no borrow. -/
def Obligations.SubtractionsFlagNoBorrow : Prop :=
  (∀ op : Word, Word.family op = 0x8 → Word.n op = 0x5 → decode op = .instr (.subReg (Word.x op) (Word.y op))) ∧
  (∀ op : Word, Word.family op = 0x8 → Word.n op = 0x7 → decode op = .instr (.subnReg (Word.x op) (Word.y op))) ∧
  ∀ (x y : RegIdx) (s : State),
    (∃ t, exec (.subReg x y) s = .next t ∧
      WritesRegFlag s t x (((s.reg x).toNat + 256 - (s.reg y).toNat) % 256) ((s.reg y).toNat ≤ (s.reg x).toNat)) ∧
    (∃ t, exec (.subnReg x y) s = .next t ∧
      WritesRegFlag s t x (((s.reg y).toNat + 256 - (s.reg x).toNat) % 256) ((s.reg x).toNat ≤ (s.reg y).toNat))

/-- R139, R141: `VX` is shifted, the bit shifted out goes to `VF`, and Y has no effect. -/
def Obligations.ShiftsFlagTheBitShiftedOut : Prop :=
  (∀ op : Word, Word.family op = 0x8 → Word.n op = 0x6 → decode op = .instr (.shr (Word.x op) (Word.y op))) ∧
  (∀ op : Word, Word.family op = 0x8 → Word.n op = 0xE → decode op = .instr (.shl (Word.x op) (Word.y op))) ∧
  ∀ (x y : RegIdx) (s : State),
    (∃ t, exec (.shr x y) s = .next t ∧ WritesRegFlag s t x ((s.reg x).toNat / 2) ((s.reg x).toNat % 2 = 1)) ∧
    (∃ t, exec (.shl x y) s = .next t ∧
      WritesRegFlag s t x ((s.reg x).toNat * 2 % 256) (128 ≤ (s.reg x).toNat)) ∧
    (∀ y', exec (.shr x y) s = exec (.shr x y') s ∧ exec (.shl x y) s = exec (.shl x y') s)

/-- R142: `VX` holds the byte drawn, masked by NN. With no byte listed the byte drawn is the model's free value (log
entry 5); the statement holds whatever it is. -/
def Obligations.RandomByteIsTheMaskedDraw : Prop :=
  (∀ op : Word, Word.family op = 0xC → decode op = .instr (.rnd (Word.x op) (Word.nn op))) ∧
  ∀ (x : RegIdx) (nn : Byte) (s : State), ∃ t, exec (.rnd x nn) s = .next t ∧
    t = { s with v := t.v, rndIn := t.rndIn, draws := t.draws } ∧ (∀ r, r ≠ x → t.reg r = s.reg r) ∧
    (∀ b bs, s.rndIn = b :: bs → t.reg x = b &&& nn ∧ t.rndIn = bs ∧ t.draws = s.draws) ∧
    (s.rndIn = [] → t.reg x = Config.freeRnd s.draws &&& nn ∧ t.rndIn = [] ∧ t.draws = s.draws + 1)

/-! ## Control flow (40_flow.md) -/

/-- R112, R118. -/
def Obligations.JumpsSetPcOnly : Prop :=
  (∀ op : Word, Word.family op = 0x1 → decode op = .instr (.jp (Word.nnn op))) ∧
  (∀ op : Word, Word.family op = 0xB → decode op = .instr (.jpV0 (Word.nnn op))) ∧
  ∀ (nnn : Addr) (s : State),
    (∃ t, exec (.jp nnn) s = .next t ∧ t = { s with pc := t.pc } ∧ t.pc.toNat = nnn.toNat) ∧
    (∃ t, exec (.jpV0 nnn) s = .next t ∧ t = { s with pc := t.pc } ∧
      t.pc.toNat = nnn.toNat + (s.reg 0).toNat)

/-- R113: a call pushes A + 2, the pc the handler sees; with 16 entries it overflows. -/
def Obligations.CallPushesTheReturnAddressOrOverflows : Prop :=
  (∀ op : Word, Word.family op = 0x2 → decode op = .instr (.call (Word.nnn op))) ∧
  ∀ (nnn : Addr) (s : State),
    (s.stack.length < 16 → ∃ t, exec (.call nnn) s = .next t ∧ t = { s with pc := t.pc, stack := t.stack } ∧
      t.stack = s.stack ++ [s.pc] ∧ t.pc.toNat = nnn.toNat) ∧
    (16 ≤ s.stack.length → exec (.call nnn) s = .next (s.faulted (s.pc - 2) 2 (nnn.setWidth 16)))

/-- R111: a return pops the last entry; with none it underflows. -/
def Obligations.ReturnPopsTheLastEntryOrUnderflows : Prop :=
  decode 0x00EE#16 = .instr .ret ∧
  ∀ s : State,
    (∀ l w, s.stack = l ++ [w] → exec .ret s = .next { s with stack := l, pc := w }) ∧
    (s.stack = [] → exec .ret s = .next (s.faulted (s.pc - 2) 3 0))

/-- The return of a call comes back to the instruction after it (90_conflicts.md C3, 95_test_vectors.md S7). -/
def Obligations.ReturnUndoesCall : Prop :=
  ∀ (nnn : Addr) (s t u : State), s.stack.length < 16 → exec (.call nnn) s = .next t → u.stack = t.stack →
    ∃ w, exec .ret u = .next w ∧ w.pc = s.pc ∧ w.stack = s.stack

/-- R114, R115. -/
def Obligations.ByteSkipsAddTwoWhenTheTestHolds : Prop :=
  (∀ op : Word, Word.family op = 0x3 → decode op = .instr (.seImm (Word.x op) (Word.nn op))) ∧
  (∀ op : Word, Word.family op = 0x4 → decode op = .instr (.sneImm (Word.x op) (Word.nn op))) ∧
  ∀ (x : RegIdx) (nn : Byte) (s : State),
    exec (.seImm x nn) s = .next { s with pc := if s.reg x = nn then s.pc + 2 else s.pc } ∧
    exec (.sneImm x nn) s = .next { s with pc := if s.reg x ≠ nn then s.pc + 2 else s.pc }

/-- R116, R117. -/
def Obligations.RegisterSkipsAddTwoWhenTheTestHolds : Prop :=
  (∀ op : Word, Word.family op = 0x5 →
    (Word.n op = 0 → decode op = .instr (.seReg (Word.x op) (Word.y op))) ∧
    (Word.n op ≠ 0 → decode op = .unsupported op)) ∧
  (∀ op : Word, Word.family op = 0x9 →
    (Word.n op = 0 → decode op = .instr (.sneReg (Word.x op) (Word.y op))) ∧
    (Word.n op ≠ 0 → decode op = .unsupported op)) ∧
  ∀ (x y : RegIdx) (s : State),
    exec (.seReg x y) s = .next { s with pc := if s.reg x = s.reg y then s.pc + 2 else s.pc } ∧
    exec (.sneReg x y) s = .next { s with pc := if s.reg x ≠ s.reg y then s.pc + 2 else s.pc }

/-- R110: the legacy call is reported, or a fault, by `ILLEGAL_POLICY`. -/
def Obligations.LegacyCallIsReportedOrFaults : Prop :=
  (∀ op : Word, Word.family op = 0x0 → op ≠ 0x00E0 → op ≠ 0x00EE → decode op = .instr (.sys (Word.nnn op))) ∧
  ∀ (nnn : Addr) (s : State),
    (s.params.illegalPolicy = .continues →
      exec (.sys nnn) s = .next { s with out := s.out ++ [.report 5 (s.pc - 2) (nnn.setWidth 16)] }) ∧
    (s.params.illegalPolicy = .halts →
      exec (.sys nnn) s = .next (s.faulted (s.pc - 2) 5 (nnn.setWidth 16)))

/-! ## Display (42_display.md) -/

/-- R164. -/
def Obligations.ClearZeroesEveryPixel : Prop :=
  decode 0x00E0#16 = .instr .cls ∧
  ∀ s : State, ∃ t, exec .cls s = .next t ∧ t = { s with disp := t.disp, out := s.out ++ [.clear] } ∧
    ∀ (y : Fin 32) (x : Fin 64), t.disp[y][x] = false

/-- R165, with the pixels of R161 and the collision of R162. -/
def Obligations.DrawXorsTheSpriteAndFlagsCollision : Prop :=
  (∀ op : Word, Word.family op = 0xD → decode op = .instr (.drw (Word.x op) (Word.y op) (Word.n op))) ∧
  ∀ (x y : RegIdx) (n : Nibble) (s : State),
    (n = 0 ∨ s.i.toNat + n.toNat ≤ 0x1000 → ∃ t, exec (.drw x y n) s = .next t ∧
      t = { s with v := t.v, disp := t.disp, out := s.out ++ [.frame t.disp] } ∧
      (∀ (py : Fin 32) (px : Fin 64),
        t.disp[py][px] = true ↔ Xor (s.disp[py][px] = true) (Covered s x y n py px)) ∧
      ((∃ (py : Fin 32) (px : Fin 64), Covered s x y n py px ∧ s.disp[py][px] = true) → t.reg vF = 1) ∧
      ((¬ ∃ (py : Fin 32) (px : Fin 64), Covered s x y n py px ∧ s.disp[py][px] = true) → t.reg vF = 0) ∧
      ∀ r, r ≠ vF → t.reg r = s.reg r) ∧
    (n ≠ 0 → 0x1000 < s.i.toNat + n.toNat →
      exec (.drw x y n) s = .next (s.faulted (s.pc - 2) 6 (BitVec.ofNat 16 (max s.i.toNat 0x1000))))

/-- R161, R162: `drawSprite` XORs exactly the pixels under 1 bits, and reports whether it cleared one. -/
def Obligations.SpriteUnitXorsPixelsUnderOneBits : Prop :=
  ∀ (d : Display) (x y : Byte) (rows : List Byte), rows.length ≤ 15 →
    (∀ (py : Fin 32) (px : Fin 64),
      (drawSprite d x y rows).disp[py][px] = true ↔ Xor (d[py][px] = true) (Under x y rows py px)) ∧
    ((drawSprite d x y rows).collided = true ↔
      ∃ (py : Fin 32) (px : Fin 64), Under x y rows py px ∧ d[py][px] = true)

/-- R166: drawing a sprite twice at one place restores every pixel, and the second draw collides exactly when some pixel
under a 1 bit was clear before the first. -/
def Obligations.DrawingASpriteTwiceRestoresTheDisplay : Prop :=
  ∀ (d : Display) (x y : Byte) (rows : List Byte), rows.length ≤ 15 →
    (drawSprite (drawSprite d x y rows).disp x y rows).disp = d ∧
    ((drawSprite (drawSprite d x y rows).disp x y rows).collided = true ↔
      ∃ (py : Fin 32) (px : Fin 64), Under x y rows py px ∧ d[py][px] = false)

/-! ## Keys and timers (43_keys_timers.md) -/

/-- R180, R181, R182. -/
def Obligations.KeySkipsTestTheKeyOrFault : Prop :=
  (∀ op : Word, Word.family op = 0xE → Word.nn op = 0x9E → decode op = .instr (.skp (Word.x op))) ∧
  (∀ op : Word, Word.family op = 0xE → Word.nn op = 0xA1 → decode op = .instr (.sknp (Word.x op))) ∧
  ∀ (x : RegIdx) (s : State),
    (∀ k : RegIdx, (s.reg x).toNat = k.val →
      exec (.skp x) s = .next { s with pc := if s.key[k] = true then s.pc + 2 else s.pc } ∧
      exec (.sknp x) s = .next { s with pc := if s.key[k] = false then s.pc + 2 else s.pc }) ∧
    (0x0F < (s.reg x).toNat →
      exec (.skp x) s = .next (s.faulted (s.pc - 2) 8 ((s.reg x).setWidth 16)) ∧
      exec (.sknp x) s = .next (s.faulted (s.pc - 2) 8 ((s.reg x).setWidth 16)))

/-- R183, R185, R186. That `sound_on` is on exactly when `ST` is not 0 is 10_state.md R50, which the spec marks as general
knowledge (log entry 18, PRESUMED). -/
def Obligations.TimerInstructionsMoveOneByte : Prop :=
  (∀ op : Word, Word.family op = 0xF →
    (Word.nn op = 0x07 → decode op = .instr (.ldVxDt (Word.x op))) ∧
    (Word.nn op = 0x15 → decode op = .instr (.ldDtVx (Word.x op))) ∧
    (Word.nn op = 0x18 → decode op = .instr (.ldStVx (Word.x op)))) ∧
  ∀ (x : RegIdx) (s : State),
    (∃ t, exec (.ldVxDt x) s = .next t ∧ WritesReg s t x s.dt) ∧
    exec (.ldDtVx x) s = .next { s with dt := s.reg x } ∧
    (∃ t, exec (.ldStVx x) s = .next t ∧ t = { s with st := s.reg x } ∧ (t.soundOn = true ↔ s.reg x ≠ 0))

/-- R184: `FX0A` enters the wait; what each event does to it. -/
def Obligations.KeyWaitIsEnteredAndResolved : Prop :=
  (∀ op : Word, Word.family op = 0xF → Word.nn op = 0x0A → decode op = .instr (.ldVxKey (Word.x op))) ∧
  (∀ (x : RegIdx) (s : State), exec (.ldVxKey x) s = .next { s with waitX := x, dstate := .awaitingKey }) ∧
  ∀ s : State, s.dstate = .awaitingKey →
    (s.nextEvent = .cycle → step s = .next { s with events := s.events.rest }) ∧
    (s.nextEvent = .tick → step s = .next { s with events := s.events.rest }) ∧
    (∀ k : RegIdx, s.nextEvent = .key k true → s.key[k] = false →
      ∃ t, step s = .next t ∧
        t = { s with key := t.key, v := t.v, dstate := .ready, events := s.events.rest } ∧ t.key[k] = true ∧
        (∀ j : RegIdx, j ≠ k → t.key[j] = s.key[j]) ∧ (t.reg s.waitX).toNat = k.val ∧
        ∀ r, r ≠ s.waitX → t.reg r = s.reg r) ∧
    (∀ (k : RegIdx) (p : Bool), s.nextEvent = .key k p → p = false ∨ s.key[k] = true →
      ∃ t, step s = .next t ∧ t = { s with key := t.key, events := s.events.rest } ∧ t.key[k] = p ∧
        ∀ j : RegIdx, j ≠ k → t.key[j] = s.key[j]) ∧
    (s.nextEvent = .quit → step s = .next { s with dstate := .terminated, events := s.events.rest }) ∧
    (∀ rom, s.nextEvent = .reset rom → rom.length ≤ 3584 → ∃ t, step s = .next t ∧ t.dstate = .ready)

/-- 60_exceptions.md R246, 43_keys_timers.md R184: however many cycles, ticks and releases come, the wait goes on and
changes nothing but the key state. -/
def Obligations.KeyWaitOutlastsCyclesTicksAndReleases : Prop :=
  ∀ (s : State) (es : List Event) (rest : EventStream), s.dstate = .awaitingKey → s.events = rest.prepend es →
    (∀ e ∈ es, e = .cycle ∨ e = .tick ∨ ∃ k, e = .key k false) →
    ∃ t : State, Host.Core.run Sys2Proof.core es.length s = .next t ∧ t = { s with key := t.key, events := rest }

/-! ## Index and memory (44_index_memory.md) -/

/-- R200, R202. -/
def Obligations.IndexLoadsSetIOnly : Prop :=
  (∀ op : Word, Word.family op = 0xA → decode op = .instr (.ldI (Word.nnn op))) ∧
  (∀ op : Word, Word.family op = 0xF → Word.nn op = 0x29 → decode op = .instr (.ldFont (Word.x op))) ∧
  (∀ (nnn : Addr) (s : State), ∃ t, exec (.ldI nnn) s = .next t ∧ t = { s with i := t.i } ∧
    t.i.toNat = nnn.toNat) ∧
  (∀ (x : RegIdx) (s : State), ∃ t, exec (.ldFont x) s = .next t ∧ t = { s with i := t.i } ∧
    t.i.toNat = (s.reg x).toNat * 5)

/-- R201. -/
def Obligations.IndexAddWrapsAtTwelveBits : Prop :=
  (∀ op : Word, Word.family op = 0xF → Word.nn op = 0x1E → decode op = .instr (.addI (Word.x op))) ∧
  ∀ (x : RegIdx) (s : State), ∃ t, exec (.addI x) s = .next t ∧ t = { s with i := t.i, v := t.v } ∧
    (∀ r, r ≠ vF → t.reg r = s.reg r) ∧
    (0x0FFF < s.i.toNat + (s.reg x).toNat →
      t.i.toNat = s.i.toNat + (s.reg x).toNat - 0x1000 ∧ t.reg vF = 1) ∧
    (s.i.toNat + (s.reg x).toNat ≤ 0x0FFF → t.i.toNat = s.i.toNat + (s.reg x).toNat ∧ t.reg vF = 0)

/-- R203: the three digits at I, I+1, I+2; the two faults; every other byte as before. -/
def Obligations.BcdStoresThreeDigitsOrFaults : Prop :=
  (∀ op : Word, Word.family op = 0xF → Word.nn op = 0x33 → decode op = .instr (.bcd (Word.x op))) ∧
  ∀ (x : RegIdx) (s : State),
    (0x050 ≤ s.i.toNat → s.i.toNat + 2 < 0x1000 → ∃ t, exec (.bcd x) s = .next t ∧ t = { s with mem := t.mem } ∧
      (∀ a, a < s.i.toNat ∨ s.i.toNat + 2 < a → t.byteAt a = s.byteAt a) ∧
      (Memory.wf (initByte s.params) s.mem →
        (t.byteAt s.i.toNat).toNat = (s.reg x).toNat / 100 ∧
        (t.byteAt (s.i.toNat + 1)).toNat = (s.reg x).toNat / 10 % 10 ∧
        (t.byteAt (s.i.toNat + 2)).toNat = (s.reg x).toNat % 10)) ∧
    (0x1000 ≤ s.i.toNat + 2 →
      exec (.bcd x) s = .next (s.faulted (s.pc - 2) 6 (BitVec.ofNat 16 (max s.i.toNat 0x1000)))) ∧
    (s.i.toNat < 0x050 → exec (.bcd x) s = .next (s.faulted (s.pc - 2) 7 s.i))

/-- R204: V0 to VX at I to I+X; the two faults; every other byte as before; I unchanged. -/
def Obligations.StoreWritesTheRegistersOrFaults : Prop :=
  (∀ op : Word, Word.family op = 0xF → Word.nn op = 0x55 → decode op = .instr (.store (Word.x op))) ∧
  ∀ (x : RegIdx) (s : State),
    (0x050 ≤ s.i.toNat → s.i.toNat + x.val < 0x1000 →
      ∃ t, exec (.store x) s = .next t ∧ t = { s with mem := t.mem } ∧
        (∀ a, a < s.i.toNat ∨ s.i.toNat + x.val < a → t.byteAt a = s.byteAt a) ∧
        (Memory.wf (initByte s.params) s.mem → ∀ k : RegIdx, k.val ≤ x.val → t.byteAt (s.i.toNat + k.val) = s.reg k)) ∧
    (0x050 ≤ s.i.toNat → 0x1000 ≤ s.i.toNat + x.val →
      exec (.store x) s = .next (s.faulted (s.pc - 2) 6 (BitVec.ofNat 16 (max s.i.toNat 0x1000)))) ∧
    (s.i.toNat < 0x050 → exec (.store x) s = .next (s.faulted (s.pc - 2) 7 s.i))

/-- R205: V0 to VX from I to I+X; the fault; I unchanged. -/
def Obligations.LoadReadsTheRegistersOrFaults : Prop :=
  (∀ op : Word, Word.family op = 0xF → Word.nn op = 0x65 → decode op = .instr (.load (Word.x op))) ∧
  ∀ (x : RegIdx) (s : State),
    (s.i.toNat + x.val < 0x1000 → ∃ t, exec (.load x) s = .next t ∧ t = { s with v := t.v } ∧
      (∀ k : RegIdx, k.val ≤ x.val → t.reg k = s.byteAt (s.i.toNat + k.val)) ∧
      (∀ k : RegIdx, x.val < k.val → t.reg k = s.reg k)) ∧
    (0x1000 ≤ s.i.toNat + x.val →
      exec (.load x) s = .next (s.faulted (s.pc - 2) 6 (BitVec.ofNat 16 (max s.i.toNat 0x1000))))

/-- R205's corner case: `FX55` followed by `FX65` with the same I and X restores V0 to VX, whatever happened to the
registers in between. -/
def Obligations.LoadAfterStoreRestoresTheRegisters : Prop :=
  ∀ (x : RegIdx) (s t u : State), Memory.wf (initByte s.params) s.mem → 0x050 ≤ s.i.toNat →
    s.i.toNat + x.val < 0x1000 → exec (.store x) s = .next t →
    u.mem = t.mem → u.params = t.params → u.i = t.i →
      ∃ w, exec (.load x) u = .next w ∧ ∀ k : RegIdx, k.val ≤ x.val → w.reg k = s.reg k

/-- 20_memory.md R73: a store is seen by the next fetch; the word `FX55` stored at I is the one a cycle at I runs. -/
def Obligations.StoredWordIsFetchedByTheNextCycle : Prop :=
  ∀ (x : RegIdx) (s t : State) (i : Instr), Memory.wf (initByte s.params) s.mem → 0x050 ≤ s.i.toNat → 1 ≤ x.val →
    s.i.toNat + x.val < 0x1000 → exec (.store x) s = .next t → s.dstate = .ready → t.nextEvent = .cycle →
    decode ((s.reg 0).setWidth 16 <<< 8 ||| (s.reg 1).setWidth 16) = .instr i →
      step { t with pc := s.i } = exec i { t with pc := s.i + 2, events := t.events.rest }

/-! ## The input sequence -/

/-- 60_exceptions.md R234, R235: a step takes exactly one event, whole, and depends on no later one; the input sequence
is the model's own field (log entry 4). -/
def Obligations.StepsTakeOneEventAndSeeNoLaterOne : Prop :=
  ∀ (s : State) (q : EventStream), q.next = s.events.next →
    (∀ t, step s = .next t → t.events = s.events.rest ∧
      step { s with events := q } = .next { t with events := q.rest }) ∧
    (∀ r, step s = .refused r → step { s with events := q } = .refused r)

/-- 60_exceptions.md R235: every finite sequence of events may come next, before any sequence; every sequence that
repeats and the free sequence go on without end; and a run takes the events of its sequence one by one. That the sequence
stands in State, and in this form, is the model's choice (log entry 4). -/
def Obligations.EveryOrderOfEventsIsAdmitted : Prop :=
  (∀ (q : EventStream) (es : List Event),
    (∀ (k : Nat) (h : k < es.length), ((q.prepend es).drop k).next = es[k]) ∧ (q.prepend es).drop es.length = q) ∧
  (∀ (e : Event) (es : List Event) (k : Nat),
    some (EventStream.drop { listed := [], after := .repeating e es } k).next = (e :: es)[k % (es.length + 1)]?) ∧
  (∀ n k, (EventStream.drop { listed := [], after := .free n } k).next = Config.freeEvent (n + k)) ∧
  ∀ (k : Nat) (s t : State), Host.Core.run Sys2Proof.core k s = .next t → t.events = s.events.drop k

/-- 60_exceptions.md R235, R236: that a timer reaches 0 rests on fairness alone. In every endless run that stays in
`Ready`, whose sequence has ticks without end, and in which nothing but a tick changes `DT`, `DT` reaches 0; the same of
`ST`. -/
def Obligations.TimersReachZeroWhenTicksNeverEnd : Prop :=
  ∀ (s : State) (t : Nat → State), (∀ k, Host.Core.run Sys2Proof.core k s = .next (t k)) →
    (∀ k, (t k).dstate = .ready) → RecursIn s.events .tick →
    ((∀ k, (s.events.drop k).next ≠ .tick → (t (k + 1)).dt = (t k).dt) → ∃ k, (t k).dt = 0) ∧
    ((∀ k, (s.events.drop k).next ≠ .tick → (t (k + 1)).st = (t k).st) → ∃ k, (t k).st = 0)
end

