-- ==== Sys2Proof/Laws/Encoding.lean ====
section
/-! SUPPORT. The fields of the words the formats build, and the words rebuilt from their fields (spec 30_encoding.md
R81, R82). -/

namespace Sys2Proof

@[simp] theorem regField_toFin (x : RegIdx) : (regField x).toFin = x := by
  revert x; decide

@[simp] theorem regField_of_toFin (b : Nibble) : regField b.toFin = b := by
  revert b; decide

theorem regField_x (op : Word) : regField (Word.x op) = op.extractLsb' 8 4 := regField_of_toFin _

theorem regField_y (op : Word) : regField (Word.y op) = op.extractLsb' 4 4 := regField_of_toFin _

/-! ## Format `A` -/

@[simp] theorem family_formatA (f : Nibble) (nnn : Addr) : Word.family (formatA f nnn) = f := by
  ext i h; interval_cases i <;> simp [Word.family, formatA, place]

@[simp] theorem nnn_formatA (f : Nibble) (nnn : Addr) : Word.nnn (formatA f nnn) = nnn := by
  ext i h; interval_cases i <;> simp [Word.nnn, formatA, place]

theorem formatA_fields (op : Word) : formatA (Word.family op) (Word.nnn op) = op := by
  ext i h; interval_cases i <;> simp [Word.family, Word.nnn, formatA, place]

/-! ## Formats `XNN` and `XS` -/

@[simp] theorem family_formatXNN (f : Nibble) (x : RegIdx) (nn : Byte) : Word.family (formatXNN f x nn) = f := by
  ext i h; interval_cases i <;> simp [Word.family, formatXNN, place]

@[simp] theorem x_formatXNN (f : Nibble) (x : RegIdx) (nn : Byte) : Word.x (formatXNN f x nn) = x := by
  have : (formatXNN f x nn).extractLsb' 8 4 = regField x := by
    ext i h; interval_cases i <;> simp [formatXNN, place]
  rw [Word.x, this, regField_toFin]

@[simp] theorem nn_formatXNN (f : Nibble) (x : RegIdx) (nn : Byte) : Word.nn (formatXNN f x nn) = nn := by
  ext i h; interval_cases i <;> simp [Word.nn, formatXNN, place]

theorem formatXNN_fields (op : Word) : formatXNN (Word.family op) (Word.x op) (Word.nn op) = op := by
  rw [formatXNN, regField_x]
  ext i h; interval_cases i <;> simp [Word.family, Word.nn, place]

/-! ## Formats `XYS` and `XYN` -/

@[simp] theorem family_formatXYN (f : Nibble) (x y : RegIdx) (n : Nibble) : Word.family (formatXYN f x y n) = f := by
  ext i h; interval_cases i <;> simp [Word.family, formatXYN, place]

@[simp] theorem x_formatXYN (f : Nibble) (x y : RegIdx) (n : Nibble) : Word.x (formatXYN f x y n) = x := by
  have : (formatXYN f x y n).extractLsb' 8 4 = regField x := by
    ext i h; interval_cases i <;> simp [formatXYN, place]
  rw [Word.x, this, regField_toFin]

@[simp] theorem y_formatXYN (f : Nibble) (x y : RegIdx) (n : Nibble) : Word.y (formatXYN f x y n) = y := by
  have : (formatXYN f x y n).extractLsb' 4 4 = regField y := by
    ext i h; interval_cases i <;> simp [formatXYN, place]
  rw [Word.y, this, regField_toFin]

@[simp] theorem n_formatXYN (f : Nibble) (x y : RegIdx) (n : Nibble) : Word.n (formatXYN f x y n) = n := by
  ext i h; interval_cases i <;> simp [Word.n, formatXYN, place]

theorem formatXYN_fields (op : Word) : formatXYN (Word.family op) (Word.x op) (Word.y op) (Word.n op) = op := by
  rw [formatXYN, regField_x, regField_y]
  ext i h; interval_cases i <;> simp [Word.family, Word.n, place]

/-! ## Bytes -/

/-- A word's two bytes, high byte first, give the word back (20_memory.md R64). -/
@[simp] theorem wordOfBytes_bytes (w : Word) : wordOfBytes (Word.hiByte w) (Word.loByte w) = w := by
  ext i h; interval_cases i <;> simp [wordOfBytes, Word.hiByte, Word.loByte, place]

@[simp] theorem hiByte_wordOfBytes (hi lo : Byte) : Word.hiByte (wordOfBytes hi lo) = hi := by
  ext i h; interval_cases i <;> simp [wordOfBytes, Word.hiByte, place]

@[simp] theorem loByte_wordOfBytes (hi lo : Byte) : Word.loByte (wordOfBytes hi lo) = lo := by
  ext i h; interval_cases i <;> simp [wordOfBytes, Word.loByte, place]

end Sys2Proof
end

