-- ==== Sys2Proof/Laws/State.lean ====
section
/-! SUPPORT. What each named update of the state does to each field: one lemma per field per update, true by rfl. An
update over another (`advance`, `setFlag`, `setRegFlag`, `raise`, `report`) is rewritten to it. -/

namespace Sys2Proof.Machine

variable (s : State)

/-! ## Updates written over other updates -/

@[simp] theorem State.advance_eq : s.advance = s.setPc (s.pc + 2) := rfl
@[simp] theorem State.setFlag_eq (c : Bool) : s.setFlag c = s.setReg vF (flagByte c) := rfl
@[simp] theorem State.setRegFlag_eq (x : RegIdx) (b : Byte) (c : Bool) :
    s.setRegFlag x b c = (s.setReg x b).setReg vF (flagByte c) := rfl
@[simp] theorem State.raise_eq (c : Cause) (w : Word) : s.raise c w = s.raiseAt (s.pc - 2) c w := rfl
@[simp] theorem State.report_eq (c : Cause) (w : Word) :
    s.report c w = s.emit (.report c.code (s.pc - 2) w) := rfl
@[simp] theorem State.base_eq : s.base = s.i.toNat := rfl

/-! ## `setByte` -/

@[simp] theorem State.setByte_mem (a : Nat) (x : Byte) : (s.setByte a x).mem = Memory.write (initByte s.params) s.mem a x := rfl
@[simp] theorem State.setByte_v (a : Nat) (x : Byte) : (s.setByte a x).v = s.v := rfl
@[simp] theorem State.setByte_i (a : Nat) (x : Byte) : (s.setByte a x).i = s.i := rfl
@[simp] theorem State.setByte_pc (a : Nat) (x : Byte) : (s.setByte a x).pc = s.pc := rfl
@[simp] theorem State.setByte_stack (a : Nat) (x : Byte) : (s.setByte a x).stack = s.stack := rfl
@[simp] theorem State.setByte_dt (a : Nat) (x : Byte) : (s.setByte a x).dt = s.dt := rfl
@[simp] theorem State.setByte_st (a : Nat) (x : Byte) : (s.setByte a x).st = s.st := rfl
@[simp] theorem State.setByte_key (a : Nat) (x : Byte) : (s.setByte a x).key = s.key := rfl
@[simp] theorem State.setByte_disp (a : Nat) (x : Byte) : (s.setByte a x).disp = s.disp := rfl
@[simp] theorem State.setByte_dstate (a : Nat) (x : Byte) : (s.setByte a x).dstate = s.dstate := rfl
@[simp] theorem State.setByte_waitX (a : Nat) (x : Byte) : (s.setByte a x).waitX = s.waitX := rfl
@[simp] theorem State.setByte_fsr (a : Nat) (x : Byte) : (s.setByte a x).fsr = s.fsr := rfl
@[simp] theorem State.setByte_params (a : Nat) (x : Byte) : (s.setByte a x).params = s.params := rfl
@[simp] theorem State.setByte_events (a : Nat) (x : Byte) : (s.setByte a x).events = s.events := rfl
@[simp] theorem State.setByte_rndIn (a : Nat) (x : Byte) : (s.setByte a x).rndIn = s.rndIn := rfl
@[simp] theorem State.setByte_draws (a : Nat) (x : Byte) : (s.setByte a x).draws = s.draws := rfl
@[simp] theorem State.setByte_out (a : Nat) (x : Byte) : (s.setByte a x).out = s.out := rfl

/-! ## `setReg` -/

@[simp] theorem State.setReg_mem (x : RegIdx) (b : Byte) : (s.setReg x b).mem = s.mem := rfl
@[simp] theorem State.setReg_v (x : RegIdx) (b : Byte) : (s.setReg x b).v = s.v.set x.val b x.isLt := rfl
@[simp] theorem State.setReg_i (x : RegIdx) (b : Byte) : (s.setReg x b).i = s.i := rfl
@[simp] theorem State.setReg_pc (x : RegIdx) (b : Byte) : (s.setReg x b).pc = s.pc := rfl
@[simp] theorem State.setReg_stack (x : RegIdx) (b : Byte) : (s.setReg x b).stack = s.stack := rfl
@[simp] theorem State.setReg_dt (x : RegIdx) (b : Byte) : (s.setReg x b).dt = s.dt := rfl
@[simp] theorem State.setReg_st (x : RegIdx) (b : Byte) : (s.setReg x b).st = s.st := rfl
@[simp] theorem State.setReg_key (x : RegIdx) (b : Byte) : (s.setReg x b).key = s.key := rfl
@[simp] theorem State.setReg_disp (x : RegIdx) (b : Byte) : (s.setReg x b).disp = s.disp := rfl
@[simp] theorem State.setReg_dstate (x : RegIdx) (b : Byte) : (s.setReg x b).dstate = s.dstate := rfl
@[simp] theorem State.setReg_waitX (x : RegIdx) (b : Byte) : (s.setReg x b).waitX = s.waitX := rfl
@[simp] theorem State.setReg_fsr (x : RegIdx) (b : Byte) : (s.setReg x b).fsr = s.fsr := rfl
@[simp] theorem State.setReg_params (x : RegIdx) (b : Byte) : (s.setReg x b).params = s.params := rfl
@[simp] theorem State.setReg_events (x : RegIdx) (b : Byte) : (s.setReg x b).events = s.events := rfl
@[simp] theorem State.setReg_rndIn (x : RegIdx) (b : Byte) : (s.setReg x b).rndIn = s.rndIn := rfl
@[simp] theorem State.setReg_draws (x : RegIdx) (b : Byte) : (s.setReg x b).draws = s.draws := rfl
@[simp] theorem State.setReg_out (x : RegIdx) (b : Byte) : (s.setReg x b).out = s.out := rfl

/-! ## `setI` -/

@[simp] theorem State.setI_mem (w : Word) : (s.setI w).mem = s.mem := rfl
@[simp] theorem State.setI_v (w : Word) : (s.setI w).v = s.v := rfl
@[simp] theorem State.setI_i (w : Word) : (s.setI w).i = w := rfl
@[simp] theorem State.setI_pc (w : Word) : (s.setI w).pc = s.pc := rfl
@[simp] theorem State.setI_stack (w : Word) : (s.setI w).stack = s.stack := rfl
@[simp] theorem State.setI_dt (w : Word) : (s.setI w).dt = s.dt := rfl
@[simp] theorem State.setI_st (w : Word) : (s.setI w).st = s.st := rfl
@[simp] theorem State.setI_key (w : Word) : (s.setI w).key = s.key := rfl
@[simp] theorem State.setI_disp (w : Word) : (s.setI w).disp = s.disp := rfl
@[simp] theorem State.setI_dstate (w : Word) : (s.setI w).dstate = s.dstate := rfl
@[simp] theorem State.setI_waitX (w : Word) : (s.setI w).waitX = s.waitX := rfl
@[simp] theorem State.setI_fsr (w : Word) : (s.setI w).fsr = s.fsr := rfl
@[simp] theorem State.setI_params (w : Word) : (s.setI w).params = s.params := rfl
@[simp] theorem State.setI_events (w : Word) : (s.setI w).events = s.events := rfl
@[simp] theorem State.setI_rndIn (w : Word) : (s.setI w).rndIn = s.rndIn := rfl
@[simp] theorem State.setI_draws (w : Word) : (s.setI w).draws = s.draws := rfl
@[simp] theorem State.setI_out (w : Word) : (s.setI w).out = s.out := rfl

/-! ## `setPc` -/

@[simp] theorem State.setPc_mem (w : Word) : (s.setPc w).mem = s.mem := rfl
@[simp] theorem State.setPc_v (w : Word) : (s.setPc w).v = s.v := rfl
@[simp] theorem State.setPc_i (w : Word) : (s.setPc w).i = s.i := rfl
@[simp] theorem State.setPc_pc (w : Word) : (s.setPc w).pc = w := rfl
@[simp] theorem State.setPc_stack (w : Word) : (s.setPc w).stack = s.stack := rfl
@[simp] theorem State.setPc_dt (w : Word) : (s.setPc w).dt = s.dt := rfl
@[simp] theorem State.setPc_st (w : Word) : (s.setPc w).st = s.st := rfl
@[simp] theorem State.setPc_key (w : Word) : (s.setPc w).key = s.key := rfl
@[simp] theorem State.setPc_disp (w : Word) : (s.setPc w).disp = s.disp := rfl
@[simp] theorem State.setPc_dstate (w : Word) : (s.setPc w).dstate = s.dstate := rfl
@[simp] theorem State.setPc_waitX (w : Word) : (s.setPc w).waitX = s.waitX := rfl
@[simp] theorem State.setPc_fsr (w : Word) : (s.setPc w).fsr = s.fsr := rfl
@[simp] theorem State.setPc_params (w : Word) : (s.setPc w).params = s.params := rfl
@[simp] theorem State.setPc_events (w : Word) : (s.setPc w).events = s.events := rfl
@[simp] theorem State.setPc_rndIn (w : Word) : (s.setPc w).rndIn = s.rndIn := rfl
@[simp] theorem State.setPc_draws (w : Word) : (s.setPc w).draws = s.draws := rfl
@[simp] theorem State.setPc_out (w : Word) : (s.setPc w).out = s.out := rfl

/-! ## `setDt` -/

@[simp] theorem State.setDt_mem (b : Byte) : (s.setDt b).mem = s.mem := rfl
@[simp] theorem State.setDt_v (b : Byte) : (s.setDt b).v = s.v := rfl
@[simp] theorem State.setDt_i (b : Byte) : (s.setDt b).i = s.i := rfl
@[simp] theorem State.setDt_pc (b : Byte) : (s.setDt b).pc = s.pc := rfl
@[simp] theorem State.setDt_stack (b : Byte) : (s.setDt b).stack = s.stack := rfl
@[simp] theorem State.setDt_dt (b : Byte) : (s.setDt b).dt = b := rfl
@[simp] theorem State.setDt_st (b : Byte) : (s.setDt b).st = s.st := rfl
@[simp] theorem State.setDt_key (b : Byte) : (s.setDt b).key = s.key := rfl
@[simp] theorem State.setDt_disp (b : Byte) : (s.setDt b).disp = s.disp := rfl
@[simp] theorem State.setDt_dstate (b : Byte) : (s.setDt b).dstate = s.dstate := rfl
@[simp] theorem State.setDt_waitX (b : Byte) : (s.setDt b).waitX = s.waitX := rfl
@[simp] theorem State.setDt_fsr (b : Byte) : (s.setDt b).fsr = s.fsr := rfl
@[simp] theorem State.setDt_params (b : Byte) : (s.setDt b).params = s.params := rfl
@[simp] theorem State.setDt_events (b : Byte) : (s.setDt b).events = s.events := rfl
@[simp] theorem State.setDt_rndIn (b : Byte) : (s.setDt b).rndIn = s.rndIn := rfl
@[simp] theorem State.setDt_draws (b : Byte) : (s.setDt b).draws = s.draws := rfl
@[simp] theorem State.setDt_out (b : Byte) : (s.setDt b).out = s.out := rfl

/-! ## `setSt` -/

@[simp] theorem State.setSt_mem (b : Byte) : (s.setSt b).mem = s.mem := rfl
@[simp] theorem State.setSt_v (b : Byte) : (s.setSt b).v = s.v := rfl
@[simp] theorem State.setSt_i (b : Byte) : (s.setSt b).i = s.i := rfl
@[simp] theorem State.setSt_pc (b : Byte) : (s.setSt b).pc = s.pc := rfl
@[simp] theorem State.setSt_stack (b : Byte) : (s.setSt b).stack = s.stack := rfl
@[simp] theorem State.setSt_dt (b : Byte) : (s.setSt b).dt = s.dt := rfl
@[simp] theorem State.setSt_st (b : Byte) : (s.setSt b).st = b := rfl
@[simp] theorem State.setSt_key (b : Byte) : (s.setSt b).key = s.key := rfl
@[simp] theorem State.setSt_disp (b : Byte) : (s.setSt b).disp = s.disp := rfl
@[simp] theorem State.setSt_dstate (b : Byte) : (s.setSt b).dstate = s.dstate := rfl
@[simp] theorem State.setSt_waitX (b : Byte) : (s.setSt b).waitX = s.waitX := rfl
@[simp] theorem State.setSt_fsr (b : Byte) : (s.setSt b).fsr = s.fsr := rfl
@[simp] theorem State.setSt_params (b : Byte) : (s.setSt b).params = s.params := rfl
@[simp] theorem State.setSt_events (b : Byte) : (s.setSt b).events = s.events := rfl
@[simp] theorem State.setSt_rndIn (b : Byte) : (s.setSt b).rndIn = s.rndIn := rfl
@[simp] theorem State.setSt_draws (b : Byte) : (s.setSt b).draws = s.draws := rfl
@[simp] theorem State.setSt_out (b : Byte) : (s.setSt b).out = s.out := rfl

/-! ## `push` -/

@[simp] theorem State.push_mem (w : Word) : (s.push w).mem = s.mem := rfl
@[simp] theorem State.push_v (w : Word) : (s.push w).v = s.v := rfl
@[simp] theorem State.push_i (w : Word) : (s.push w).i = s.i := rfl
@[simp] theorem State.push_pc (w : Word) : (s.push w).pc = s.pc := rfl
@[simp] theorem State.push_stack (w : Word) : (s.push w).stack = s.stack ++ [w] := rfl
@[simp] theorem State.push_dt (w : Word) : (s.push w).dt = s.dt := rfl
@[simp] theorem State.push_st (w : Word) : (s.push w).st = s.st := rfl
@[simp] theorem State.push_key (w : Word) : (s.push w).key = s.key := rfl
@[simp] theorem State.push_disp (w : Word) : (s.push w).disp = s.disp := rfl
@[simp] theorem State.push_dstate (w : Word) : (s.push w).dstate = s.dstate := rfl
@[simp] theorem State.push_waitX (w : Word) : (s.push w).waitX = s.waitX := rfl
@[simp] theorem State.push_fsr (w : Word) : (s.push w).fsr = s.fsr := rfl
@[simp] theorem State.push_params (w : Word) : (s.push w).params = s.params := rfl
@[simp] theorem State.push_events (w : Word) : (s.push w).events = s.events := rfl
@[simp] theorem State.push_rndIn (w : Word) : (s.push w).rndIn = s.rndIn := rfl
@[simp] theorem State.push_draws (w : Word) : (s.push w).draws = s.draws := rfl
@[simp] theorem State.push_out (w : Word) : (s.push w).out = s.out := rfl

/-! ## `dropTop` -/

@[simp] theorem State.dropTop_mem : s.dropTop.mem = s.mem := rfl
@[simp] theorem State.dropTop_v : s.dropTop.v = s.v := rfl
@[simp] theorem State.dropTop_i : s.dropTop.i = s.i := rfl
@[simp] theorem State.dropTop_pc : s.dropTop.pc = s.pc := rfl
@[simp] theorem State.dropTop_stack : s.dropTop.stack = s.stack.dropLast := rfl
@[simp] theorem State.dropTop_dt : s.dropTop.dt = s.dt := rfl
@[simp] theorem State.dropTop_st : s.dropTop.st = s.st := rfl
@[simp] theorem State.dropTop_key : s.dropTop.key = s.key := rfl
@[simp] theorem State.dropTop_disp : s.dropTop.disp = s.disp := rfl
@[simp] theorem State.dropTop_dstate : s.dropTop.dstate = s.dstate := rfl
@[simp] theorem State.dropTop_waitX : s.dropTop.waitX = s.waitX := rfl
@[simp] theorem State.dropTop_fsr : s.dropTop.fsr = s.fsr := rfl
@[simp] theorem State.dropTop_params : s.dropTop.params = s.params := rfl
@[simp] theorem State.dropTop_events : s.dropTop.events = s.events := rfl
@[simp] theorem State.dropTop_rndIn : s.dropTop.rndIn = s.rndIn := rfl
@[simp] theorem State.dropTop_draws : s.dropTop.draws = s.draws := rfl
@[simp] theorem State.dropTop_out : s.dropTop.out = s.out := rfl

/-! ## `setDisp` -/

@[simp] theorem State.setDisp_mem (d : Display) : (s.setDisp d).mem = s.mem := rfl
@[simp] theorem State.setDisp_v (d : Display) : (s.setDisp d).v = s.v := rfl
@[simp] theorem State.setDisp_i (d : Display) : (s.setDisp d).i = s.i := rfl
@[simp] theorem State.setDisp_pc (d : Display) : (s.setDisp d).pc = s.pc := rfl
@[simp] theorem State.setDisp_stack (d : Display) : (s.setDisp d).stack = s.stack := rfl
@[simp] theorem State.setDisp_dt (d : Display) : (s.setDisp d).dt = s.dt := rfl
@[simp] theorem State.setDisp_st (d : Display) : (s.setDisp d).st = s.st := rfl
@[simp] theorem State.setDisp_key (d : Display) : (s.setDisp d).key = s.key := rfl
@[simp] theorem State.setDisp_disp (d : Display) : (s.setDisp d).disp = d := rfl
@[simp] theorem State.setDisp_dstate (d : Display) : (s.setDisp d).dstate = s.dstate := rfl
@[simp] theorem State.setDisp_waitX (d : Display) : (s.setDisp d).waitX = s.waitX := rfl
@[simp] theorem State.setDisp_fsr (d : Display) : (s.setDisp d).fsr = s.fsr := rfl
@[simp] theorem State.setDisp_params (d : Display) : (s.setDisp d).params = s.params := rfl
@[simp] theorem State.setDisp_events (d : Display) : (s.setDisp d).events = s.events := rfl
@[simp] theorem State.setDisp_rndIn (d : Display) : (s.setDisp d).rndIn = s.rndIn := rfl
@[simp] theorem State.setDisp_draws (d : Display) : (s.setDisp d).draws = s.draws := rfl
@[simp] theorem State.setDisp_out (d : Display) : (s.setDisp d).out = s.out := rfl

/-! ## `await` -/

@[simp] theorem State.await_mem (x : RegIdx) : (s.await x).mem = s.mem := rfl
@[simp] theorem State.await_v (x : RegIdx) : (s.await x).v = s.v := rfl
@[simp] theorem State.await_i (x : RegIdx) : (s.await x).i = s.i := rfl
@[simp] theorem State.await_pc (x : RegIdx) : (s.await x).pc = s.pc := rfl
@[simp] theorem State.await_stack (x : RegIdx) : (s.await x).stack = s.stack := rfl
@[simp] theorem State.await_dt (x : RegIdx) : (s.await x).dt = s.dt := rfl
@[simp] theorem State.await_st (x : RegIdx) : (s.await x).st = s.st := rfl
@[simp] theorem State.await_key (x : RegIdx) : (s.await x).key = s.key := rfl
@[simp] theorem State.await_disp (x : RegIdx) : (s.await x).disp = s.disp := rfl
@[simp] theorem State.await_dstate (x : RegIdx) : (s.await x).dstate = .awaitingKey := rfl
@[simp] theorem State.await_waitX (x : RegIdx) : (s.await x).waitX = x := rfl
@[simp] theorem State.await_fsr (x : RegIdx) : (s.await x).fsr = s.fsr := rfl
@[simp] theorem State.await_params (x : RegIdx) : (s.await x).params = s.params := rfl
@[simp] theorem State.await_events (x : RegIdx) : (s.await x).events = s.events := rfl
@[simp] theorem State.await_rndIn (x : RegIdx) : (s.await x).rndIn = s.rndIn := rfl
@[simp] theorem State.await_draws (x : RegIdx) : (s.await x).draws = s.draws := rfl
@[simp] theorem State.await_out (x : RegIdx) : (s.await x).out = s.out := rfl

/-! ## `emit` -/

@[simp] theorem State.emit_mem (e : Output) : (s.emit e).mem = s.mem := rfl
@[simp] theorem State.emit_v (e : Output) : (s.emit e).v = s.v := rfl
@[simp] theorem State.emit_i (e : Output) : (s.emit e).i = s.i := rfl
@[simp] theorem State.emit_pc (e : Output) : (s.emit e).pc = s.pc := rfl
@[simp] theorem State.emit_stack (e : Output) : (s.emit e).stack = s.stack := rfl
@[simp] theorem State.emit_dt (e : Output) : (s.emit e).dt = s.dt := rfl
@[simp] theorem State.emit_st (e : Output) : (s.emit e).st = s.st := rfl
@[simp] theorem State.emit_key (e : Output) : (s.emit e).key = s.key := rfl
@[simp] theorem State.emit_disp (e : Output) : (s.emit e).disp = s.disp := rfl
@[simp] theorem State.emit_dstate (e : Output) : (s.emit e).dstate = s.dstate := rfl
@[simp] theorem State.emit_waitX (e : Output) : (s.emit e).waitX = s.waitX := rfl
@[simp] theorem State.emit_fsr (e : Output) : (s.emit e).fsr = s.fsr := rfl
@[simp] theorem State.emit_params (e : Output) : (s.emit e).params = s.params := rfl
@[simp] theorem State.emit_events (e : Output) : (s.emit e).events = s.events := rfl
@[simp] theorem State.emit_rndIn (e : Output) : (s.emit e).rndIn = s.rndIn := rfl
@[simp] theorem State.emit_draws (e : Output) : (s.emit e).draws = s.draws := rfl
@[simp] theorem State.emit_out (e : Output) : (s.emit e).out = s.out ++ [e] := rfl

/-! ## `raiseAt` -/

@[simp] theorem State.raiseAt_mem (a : Word) (c : Cause) (w : Word) : (s.raiseAt a c w).mem = s.mem := rfl
@[simp] theorem State.raiseAt_v (a : Word) (c : Cause) (w : Word) : (s.raiseAt a c w).v = s.v := rfl
@[simp] theorem State.raiseAt_i (a : Word) (c : Cause) (w : Word) : (s.raiseAt a c w).i = s.i := rfl
@[simp] theorem State.raiseAt_pc (a : Word) (c : Cause) (w : Word) : (s.raiseAt a c w).pc = s.pc := rfl
@[simp] theorem State.raiseAt_stack (a : Word) (c : Cause) (w : Word) : (s.raiseAt a c w).stack = s.stack := rfl
@[simp] theorem State.raiseAt_dt (a : Word) (c : Cause) (w : Word) : (s.raiseAt a c w).dt = s.dt := rfl
@[simp] theorem State.raiseAt_st (a : Word) (c : Cause) (w : Word) : (s.raiseAt a c w).st = s.st := rfl
@[simp] theorem State.raiseAt_key (a : Word) (c : Cause) (w : Word) : (s.raiseAt a c w).key = s.key := rfl
@[simp] theorem State.raiseAt_disp (a : Word) (c : Cause) (w : Word) : (s.raiseAt a c w).disp = s.disp := rfl
@[simp] theorem State.raiseAt_dstate (a : Word) (c : Cause) (w : Word) : (s.raiseAt a c w).dstate = .halted := rfl
@[simp] theorem State.raiseAt_waitX (a : Word) (c : Cause) (w : Word) : (s.raiseAt a c w).waitX = s.waitX := rfl
@[simp] theorem State.raiseAt_fsr (a : Word) (c : Cause) (w : Word) : (s.raiseAt a c w).fsr = ⟨c.code, a, w⟩ := rfl
@[simp] theorem State.raiseAt_params (a : Word) (c : Cause) (w : Word) : (s.raiseAt a c w).params = s.params := rfl
@[simp] theorem State.raiseAt_events (a : Word) (c : Cause) (w : Word) : (s.raiseAt a c w).events = s.events := rfl
@[simp] theorem State.raiseAt_rndIn (a : Word) (c : Cause) (w : Word) : (s.raiseAt a c w).rndIn = s.rndIn := rfl
@[simp] theorem State.raiseAt_draws (a : Word) (c : Cause) (w : Word) : (s.raiseAt a c w).draws = s.draws := rfl
@[simp] theorem State.raiseAt_out (a : Word) (c : Cause) (w : Word) : (s.raiseAt a c w).out = s.out ++ [.report c.code a w] := rfl

/-! ## `setKey` -/

@[simp] theorem State.setKey_mem (k : RegIdx) (p : Bool) : (s.setKey k p).mem = s.mem := rfl
@[simp] theorem State.setKey_v (k : RegIdx) (p : Bool) : (s.setKey k p).v = s.v := rfl
@[simp] theorem State.setKey_i (k : RegIdx) (p : Bool) : (s.setKey k p).i = s.i := rfl
@[simp] theorem State.setKey_pc (k : RegIdx) (p : Bool) : (s.setKey k p).pc = s.pc := rfl
@[simp] theorem State.setKey_stack (k : RegIdx) (p : Bool) : (s.setKey k p).stack = s.stack := rfl
@[simp] theorem State.setKey_dt (k : RegIdx) (p : Bool) : (s.setKey k p).dt = s.dt := rfl
@[simp] theorem State.setKey_st (k : RegIdx) (p : Bool) : (s.setKey k p).st = s.st := rfl
@[simp] theorem State.setKey_key (k : RegIdx) (p : Bool) : (s.setKey k p).key = s.key.set k.val p k.isLt := rfl
@[simp] theorem State.setKey_disp (k : RegIdx) (p : Bool) : (s.setKey k p).disp = s.disp := rfl
@[simp] theorem State.setKey_dstate (k : RegIdx) (p : Bool) : (s.setKey k p).dstate = s.dstate := rfl
@[simp] theorem State.setKey_waitX (k : RegIdx) (p : Bool) : (s.setKey k p).waitX = s.waitX := rfl
@[simp] theorem State.setKey_fsr (k : RegIdx) (p : Bool) : (s.setKey k p).fsr = s.fsr := rfl
@[simp] theorem State.setKey_params (k : RegIdx) (p : Bool) : (s.setKey k p).params = s.params := rfl
@[simp] theorem State.setKey_events (k : RegIdx) (p : Bool) : (s.setKey k p).events = s.events := rfl
@[simp] theorem State.setKey_rndIn (k : RegIdx) (p : Bool) : (s.setKey k p).rndIn = s.rndIn := rfl
@[simp] theorem State.setKey_draws (k : RegIdx) (p : Bool) : (s.setKey k p).draws = s.draws := rfl
@[simp] theorem State.setKey_out (k : RegIdx) (p : Bool) : (s.setKey k p).out = s.out := rfl

/-! ## `resolveKey` -/

@[simp] theorem State.resolveKey_mem (k : RegIdx) : (s.resolveKey k).mem = s.mem := rfl
@[simp] theorem State.resolveKey_v (k : RegIdx) : (s.resolveKey k).v = s.v.set s.waitX.val (BitVec.ofNat 8 k.val) s.waitX.isLt := rfl
@[simp] theorem State.resolveKey_i (k : RegIdx) : (s.resolveKey k).i = s.i := rfl
@[simp] theorem State.resolveKey_pc (k : RegIdx) : (s.resolveKey k).pc = s.pc := rfl
@[simp] theorem State.resolveKey_stack (k : RegIdx) : (s.resolveKey k).stack = s.stack := rfl
@[simp] theorem State.resolveKey_dt (k : RegIdx) : (s.resolveKey k).dt = s.dt := rfl
@[simp] theorem State.resolveKey_st (k : RegIdx) : (s.resolveKey k).st = s.st := rfl
@[simp] theorem State.resolveKey_key (k : RegIdx) : (s.resolveKey k).key = s.key.set k.val true k.isLt := rfl
@[simp] theorem State.resolveKey_disp (k : RegIdx) : (s.resolveKey k).disp = s.disp := rfl
@[simp] theorem State.resolveKey_dstate (k : RegIdx) : (s.resolveKey k).dstate = .ready := rfl
@[simp] theorem State.resolveKey_waitX (k : RegIdx) : (s.resolveKey k).waitX = s.waitX := rfl
@[simp] theorem State.resolveKey_fsr (k : RegIdx) : (s.resolveKey k).fsr = s.fsr := rfl
@[simp] theorem State.resolveKey_params (k : RegIdx) : (s.resolveKey k).params = s.params := rfl
@[simp] theorem State.resolveKey_events (k : RegIdx) : (s.resolveKey k).events = s.events := rfl
@[simp] theorem State.resolveKey_rndIn (k : RegIdx) : (s.resolveKey k).rndIn = s.rndIn := rfl
@[simp] theorem State.resolveKey_draws (k : RegIdx) : (s.resolveKey k).draws = s.draws := rfl
@[simp] theorem State.resolveKey_out (k : RegIdx) : (s.resolveKey k).out = s.out := rfl

/-! ## `takeEvent` -/

@[simp] theorem State.takeEvent_mem : s.takeEvent.mem = s.mem := rfl
@[simp] theorem State.takeEvent_v : s.takeEvent.v = s.v := rfl
@[simp] theorem State.takeEvent_i : s.takeEvent.i = s.i := rfl
@[simp] theorem State.takeEvent_pc : s.takeEvent.pc = s.pc := rfl
@[simp] theorem State.takeEvent_stack : s.takeEvent.stack = s.stack := rfl
@[simp] theorem State.takeEvent_dt : s.takeEvent.dt = s.dt := rfl
@[simp] theorem State.takeEvent_st : s.takeEvent.st = s.st := rfl
@[simp] theorem State.takeEvent_key : s.takeEvent.key = s.key := rfl
@[simp] theorem State.takeEvent_disp : s.takeEvent.disp = s.disp := rfl
@[simp] theorem State.takeEvent_dstate : s.takeEvent.dstate = s.dstate := rfl
@[simp] theorem State.takeEvent_waitX : s.takeEvent.waitX = s.waitX := rfl
@[simp] theorem State.takeEvent_fsr : s.takeEvent.fsr = s.fsr := rfl
@[simp] theorem State.takeEvent_params : s.takeEvent.params = s.params := rfl
@[simp] theorem State.takeEvent_events : s.takeEvent.events = s.events.rest := rfl
@[simp] theorem State.takeEvent_rndIn : s.takeEvent.rndIn = s.rndIn := rfl
@[simp] theorem State.takeEvent_draws : s.takeEvent.draws = s.draws := rfl
@[simp] theorem State.takeEvent_out : s.takeEvent.out = s.out := rfl

/-! ## `skipIf`, `takeDraw`, `setBytes`, `loadRegs` -/

@[simp] theorem State.skipIf_mem (c : Bool) : (s.skipIf c).mem = s.mem := by unfold skipIf; split <;> rfl
@[simp] theorem State.skipIf_v (c : Bool) : (s.skipIf c).v = s.v := by unfold skipIf; split <;> rfl
@[simp] theorem State.skipIf_i (c : Bool) : (s.skipIf c).i = s.i := by unfold skipIf; split <;> rfl
@[simp] theorem State.skipIf_pc (c : Bool) : (s.skipIf c).pc = if c then s.pc + 2 else s.pc := by
  unfold skipIf; split <;> rfl
@[simp] theorem State.skipIf_stack (c : Bool) : (s.skipIf c).stack = s.stack := by unfold skipIf; split <;> rfl
@[simp] theorem State.skipIf_dt (c : Bool) : (s.skipIf c).dt = s.dt := by unfold skipIf; split <;> rfl
@[simp] theorem State.skipIf_st (c : Bool) : (s.skipIf c).st = s.st := by unfold skipIf; split <;> rfl
@[simp] theorem State.skipIf_key (c : Bool) : (s.skipIf c).key = s.key := by unfold skipIf; split <;> rfl
@[simp] theorem State.skipIf_disp (c : Bool) : (s.skipIf c).disp = s.disp := by unfold skipIf; split <;> rfl
@[simp] theorem State.skipIf_dstate (c : Bool) : (s.skipIf c).dstate = s.dstate := by unfold skipIf; split <;> rfl
@[simp] theorem State.skipIf_waitX (c : Bool) : (s.skipIf c).waitX = s.waitX := by unfold skipIf; split <;> rfl
@[simp] theorem State.skipIf_fsr (c : Bool) : (s.skipIf c).fsr = s.fsr := by unfold skipIf; split <;> rfl
@[simp] theorem State.skipIf_params (c : Bool) : (s.skipIf c).params = s.params := by unfold skipIf; split <;> rfl
@[simp] theorem State.skipIf_events (c : Bool) : (s.skipIf c).events = s.events := by unfold skipIf; split <;> rfl
@[simp] theorem State.skipIf_rndIn (c : Bool) : (s.skipIf c).rndIn = s.rndIn := by unfold skipIf; split <;> rfl
@[simp] theorem State.skipIf_draws (c : Bool) : (s.skipIf c).draws = s.draws := by unfold skipIf; split <;> rfl
@[simp] theorem State.skipIf_out (c : Bool) : (s.skipIf c).out = s.out := by unfold skipIf; split <;> rfl

@[simp] theorem State.takeDraw_mem : s.takeDraw.mem = s.mem := by unfold takeDraw; split <;> rfl
@[simp] theorem State.takeDraw_v : s.takeDraw.v = s.v := by unfold takeDraw; split <;> rfl
@[simp] theorem State.takeDraw_i : s.takeDraw.i = s.i := by unfold takeDraw; split <;> rfl
@[simp] theorem State.takeDraw_pc : s.takeDraw.pc = s.pc := by unfold takeDraw; split <;> rfl
@[simp] theorem State.takeDraw_stack : s.takeDraw.stack = s.stack := by unfold takeDraw; split <;> rfl
@[simp] theorem State.takeDraw_dt : s.takeDraw.dt = s.dt := by unfold takeDraw; split <;> rfl
@[simp] theorem State.takeDraw_st : s.takeDraw.st = s.st := by unfold takeDraw; split <;> rfl
@[simp] theorem State.takeDraw_key : s.takeDraw.key = s.key := by unfold takeDraw; split <;> rfl
@[simp] theorem State.takeDraw_disp : s.takeDraw.disp = s.disp := by unfold takeDraw; split <;> rfl
@[simp] theorem State.takeDraw_dstate : s.takeDraw.dstate = s.dstate := by unfold takeDraw; split <;> rfl
@[simp] theorem State.takeDraw_waitX : s.takeDraw.waitX = s.waitX := by unfold takeDraw; split <;> rfl
@[simp] theorem State.takeDraw_fsr : s.takeDraw.fsr = s.fsr := by unfold takeDraw; split <;> rfl
@[simp] theorem State.takeDraw_params : s.takeDraw.params = s.params := by unfold takeDraw; split <;> rfl
@[simp] theorem State.takeDraw_events : s.takeDraw.events = s.events := by unfold takeDraw; split <;> rfl
@[simp] theorem State.takeDraw_out : s.takeDraw.out = s.out := by unfold takeDraw; split <;> rfl

@[simp] theorem State.setBytes_v (a : Nat) (xs : List Byte) : (s.setBytes a xs).v = s.v := by
  induction xs generalizing s a with
  | nil => rfl
  | cons x xs ih => exact (ih (s.setByte a x) (a + 1)).trans rfl
@[simp] theorem State.setBytes_i (a : Nat) (xs : List Byte) : (s.setBytes a xs).i = s.i := by
  induction xs generalizing s a with
  | nil => rfl
  | cons x xs ih => exact (ih (s.setByte a x) (a + 1)).trans rfl
@[simp] theorem State.setBytes_pc (a : Nat) (xs : List Byte) : (s.setBytes a xs).pc = s.pc := by
  induction xs generalizing s a with
  | nil => rfl
  | cons x xs ih => exact (ih (s.setByte a x) (a + 1)).trans rfl
@[simp] theorem State.setBytes_stack (a : Nat) (xs : List Byte) : (s.setBytes a xs).stack = s.stack := by
  induction xs generalizing s a with
  | nil => rfl
  | cons x xs ih => exact (ih (s.setByte a x) (a + 1)).trans rfl
@[simp] theorem State.setBytes_dt (a : Nat) (xs : List Byte) : (s.setBytes a xs).dt = s.dt := by
  induction xs generalizing s a with
  | nil => rfl
  | cons x xs ih => exact (ih (s.setByte a x) (a + 1)).trans rfl
@[simp] theorem State.setBytes_st (a : Nat) (xs : List Byte) : (s.setBytes a xs).st = s.st := by
  induction xs generalizing s a with
  | nil => rfl
  | cons x xs ih => exact (ih (s.setByte a x) (a + 1)).trans rfl
@[simp] theorem State.setBytes_key (a : Nat) (xs : List Byte) : (s.setBytes a xs).key = s.key := by
  induction xs generalizing s a with
  | nil => rfl
  | cons x xs ih => exact (ih (s.setByte a x) (a + 1)).trans rfl
@[simp] theorem State.setBytes_disp (a : Nat) (xs : List Byte) : (s.setBytes a xs).disp = s.disp := by
  induction xs generalizing s a with
  | nil => rfl
  | cons x xs ih => exact (ih (s.setByte a x) (a + 1)).trans rfl
@[simp] theorem State.setBytes_dstate (a : Nat) (xs : List Byte) : (s.setBytes a xs).dstate = s.dstate := by
  induction xs generalizing s a with
  | nil => rfl
  | cons x xs ih => exact (ih (s.setByte a x) (a + 1)).trans rfl
@[simp] theorem State.setBytes_waitX (a : Nat) (xs : List Byte) : (s.setBytes a xs).waitX = s.waitX := by
  induction xs generalizing s a with
  | nil => rfl
  | cons x xs ih => exact (ih (s.setByte a x) (a + 1)).trans rfl
@[simp] theorem State.setBytes_fsr (a : Nat) (xs : List Byte) : (s.setBytes a xs).fsr = s.fsr := by
  induction xs generalizing s a with
  | nil => rfl
  | cons x xs ih => exact (ih (s.setByte a x) (a + 1)).trans rfl
@[simp] theorem State.setBytes_params (a : Nat) (xs : List Byte) : (s.setBytes a xs).params = s.params := by
  induction xs generalizing s a with
  | nil => rfl
  | cons x xs ih => exact (ih (s.setByte a x) (a + 1)).trans rfl
@[simp] theorem State.setBytes_events (a : Nat) (xs : List Byte) : (s.setBytes a xs).events = s.events := by
  induction xs generalizing s a with
  | nil => rfl
  | cons x xs ih => exact (ih (s.setByte a x) (a + 1)).trans rfl
@[simp] theorem State.setBytes_rndIn (a : Nat) (xs : List Byte) : (s.setBytes a xs).rndIn = s.rndIn := by
  induction xs generalizing s a with
  | nil => rfl
  | cons x xs ih => exact (ih (s.setByte a x) (a + 1)).trans rfl
@[simp] theorem State.setBytes_draws (a : Nat) (xs : List Byte) : (s.setBytes a xs).draws = s.draws := by
  induction xs generalizing s a with
  | nil => rfl
  | cons x xs ih => exact (ih (s.setByte a x) (a + 1)).trans rfl
@[simp] theorem State.setBytes_out (a : Nat) (xs : List Byte) : (s.setBytes a xs).out = s.out := by
  induction xs generalizing s a with
  | nil => rfl
  | cons x xs ih => exact (ih (s.setByte a x) (a + 1)).trans rfl

@[simp] theorem State.loadRegs_mem (a n : Nat) : (s.loadRegs a n).mem = s.mem := by
  induction n with
  | zero => rfl
  | succ n ih => exact ih
@[simp] theorem State.loadRegs_i (a n : Nat) : (s.loadRegs a n).i = s.i := by
  induction n with
  | zero => rfl
  | succ n ih => exact ih
@[simp] theorem State.loadRegs_pc (a n : Nat) : (s.loadRegs a n).pc = s.pc := by
  induction n with
  | zero => rfl
  | succ n ih => exact ih
@[simp] theorem State.loadRegs_stack (a n : Nat) : (s.loadRegs a n).stack = s.stack := by
  induction n with
  | zero => rfl
  | succ n ih => exact ih
@[simp] theorem State.loadRegs_dt (a n : Nat) : (s.loadRegs a n).dt = s.dt := by
  induction n with
  | zero => rfl
  | succ n ih => exact ih
@[simp] theorem State.loadRegs_st (a n : Nat) : (s.loadRegs a n).st = s.st := by
  induction n with
  | zero => rfl
  | succ n ih => exact ih
@[simp] theorem State.loadRegs_key (a n : Nat) : (s.loadRegs a n).key = s.key := by
  induction n with
  | zero => rfl
  | succ n ih => exact ih
@[simp] theorem State.loadRegs_disp (a n : Nat) : (s.loadRegs a n).disp = s.disp := by
  induction n with
  | zero => rfl
  | succ n ih => exact ih
@[simp] theorem State.loadRegs_dstate (a n : Nat) : (s.loadRegs a n).dstate = s.dstate := by
  induction n with
  | zero => rfl
  | succ n ih => exact ih
@[simp] theorem State.loadRegs_waitX (a n : Nat) : (s.loadRegs a n).waitX = s.waitX := by
  induction n with
  | zero => rfl
  | succ n ih => exact ih
@[simp] theorem State.loadRegs_fsr (a n : Nat) : (s.loadRegs a n).fsr = s.fsr := by
  induction n with
  | zero => rfl
  | succ n ih => exact ih
@[simp] theorem State.loadRegs_params (a n : Nat) : (s.loadRegs a n).params = s.params := by
  induction n with
  | zero => rfl
  | succ n ih => exact ih
@[simp] theorem State.loadRegs_events (a n : Nat) : (s.loadRegs a n).events = s.events := by
  induction n with
  | zero => rfl
  | succ n ih => exact ih
@[simp] theorem State.loadRegs_rndIn (a n : Nat) : (s.loadRegs a n).rndIn = s.rndIn := by
  induction n with
  | zero => rfl
  | succ n ih => exact ih
@[simp] theorem State.loadRegs_draws (a n : Nat) : (s.loadRegs a n).draws = s.draws := by
  induction n with
  | zero => rfl
  | succ n ih => exact ih
@[simp] theorem State.loadRegs_out (a n : Nat) : (s.loadRegs a n).out = s.out := by
  induction n with
  | zero => rfl
  | succ n ih => exact ih

/-! ## A state is its fields: what an update leaves is the record with that field replaced -/

theorem State.setReg_record (x : RegIdx) (b : Byte) : s.setReg x b = { s with v := (s.setReg x b).v } := rfl
theorem State.loadRegs_record (a n : Nat) : s.loadRegs a n = { s with v := (s.loadRegs a n).v } := by
  apply State.ext <;> simp
theorem State.setBytes_record (a : Nat) (xs : List Byte) : s.setBytes a xs = { s with mem := (s.setBytes a xs).mem } := by
  apply State.ext <;> simp

end Sys2Proof.Machine
end

