-- ==== Sys2Proof/Laws/Memory.lean ====
section
/-! SUPPORT. The laws of memory: read after write, the canonical form, the byte runs, the range check. -/

namespace Sys2Proof.Machine

/-! ## Cells -/

@[simp] theorem cellAt_nil (a : Nat) : cellAt [] a = none := rfl

theorem cellAt_cons (c : Host.Cell) (m : Memory) (a : Nat) :
    cellAt (c :: m) a = if a = c.1 then some c.2 else cellAt m a := rfl

theorem cellAt_eq_none {m : Memory} {a : Nat} (h : ∀ c ∈ m, a ≠ c.1) : cellAt m a = none := by
  induction m with
  | nil => rfl
  | cons c m ih =>
    rw [cellAt_cons, if_neg (h c (by simp)), ih (fun d hd => h d (by simp [hd]))]

theorem mem_of_cellAt {m : Memory} {a : Nat} {x : Byte} (h : cellAt m a = some x) : (a, x) ∈ m := by
  induction m with
  | nil => simp at h
  | cons c m ih =>
    rw [cellAt_cons] at h
    split at h
    · next hac => cases c; simp_all
    · exact List.mem_cons_of_mem _ (ih h)

/-! ## Read after write -/

/-- A write leaves every other address alone, whatever the list. -/
theorem Memory.read_write_other (base : Nat → Byte) (m : Memory) {a b : Nat} (x : Byte) (h : b ≠ a) :
    Memory.read base (Memory.write base m a x) b = Memory.read base m b := by
  unfold Memory.read
  induction m with
  | nil => unfold Memory.write; split <;> simp [cellAt_cons, h]
  | cons c m ih =>
    obtain ⟨d, w⟩ := c
    unfold Memory.write
    by_cases hd : b = d
    · repeat' split
      all_goals simp_all [cellAt_cons]
    · repeat' split
      all_goals simp_all [cellAt_cons]

/-- A read of the address just written gives the byte written, in a memory of rising addresses. -/
theorem Memory.read_write_same (base : Nat → Byte) {m : Memory} (hm : m.Pairwise (fun c d => c.1 < d.1)) (a : Nat)
    (x : Byte) : Memory.read base (Memory.write base m a x) a = x := by
  unfold Memory.read
  induction m with
  | nil => unfold Memory.write; split <;> simp_all [cellAt_cons]
  | cons c m ih =>
    obtain ⟨d, w⟩ := c
    rw [List.pairwise_cons] at hm
    have hnone : a ≤ d → cellAt m a = none := fun had =>
      cellAt_eq_none (fun e he => by have := hm.1 e he; simp only at this; omega)
    unfold Memory.write
    split
    · next hlt =>
      split
      · next hx => rw [cellAt_cons, if_neg (by simp only; omega), hnone (by omega)]; simp [hx]
      · simp [cellAt_cons]
    · split
      · next hge heq =>
        split
        · next hx => rw [hnone (by omega)]; simp [hx]
        · simp [cellAt_cons]
      · next hge hne => rw [cellAt_cons, if_neg (by simpa using hne)]; exact ih hm.2

/-! ## The canonical form -/

/-- Every cell of the memory after a write is an old cell or the cell written. -/
theorem Memory.mem_write {base : Nat → Byte} {m : Memory} {a : Nat} {x : Byte} {c : Host.Cell}
    (h : c ∈ Memory.write base m a x) : c ∈ m ∨ c = (a, x) ∧ x ≠ base a := by
  induction m with
  | nil => unfold Memory.write at h; split at h <;> simp_all
  | cons d m ih =>
    obtain ⟨b, w⟩ := d
    unfold Memory.write at h
    split at h
    · split at h
      · exact .inl h
      · next hx => rcases List.mem_cons.1 h with h | h <;> simp_all
    · split at h
      · split at h
        · exact .inl (List.mem_cons_of_mem _ h)
        · next hx => rcases List.mem_cons.1 h with h | h <;> simp_all
      · rcases List.mem_cons.1 h with h | h
        · simp_all
        · rcases ih h with h | h
          · exact .inl (List.mem_cons_of_mem _ h)
          · exact .inr h

/-- A write inside the address space keeps the canonical form. -/
theorem Memory.write_wf {base : Nat → Byte} {m : Memory} (hm : Memory.wf base m) {a : Nat} (ha : a < Config.memSize)
    (x : Byte) : Memory.wf base (Memory.write base m a x) := by
  constructor
  · have hp := hm.1
    clear hm
    induction m with
    | nil => unfold Memory.write; split <;> simp
    | cons d m ih =>
      obtain ⟨b, w⟩ := d
      have hp' := List.pairwise_cons.1 hp
      unfold Memory.write
      split
      · next hlt =>
        split
        · exact hp
        · refine List.pairwise_cons.2 ⟨fun e he => ?_, hp⟩
          rcases List.mem_cons.1 he with rfl | he
          · exact hlt
          · exact Nat.lt_trans hlt (hp'.1 e he)
      · split
        · next heq =>
          subst heq
          split
          · exact hp'.2
          · exact List.pairwise_cons.2 ⟨hp'.1, hp'.2⟩
        · next hge hne =>
          refine List.pairwise_cons.2 ⟨fun e he => ?_, ih hp'.2⟩
          rcases Memory.mem_write he with he | ⟨rfl, -⟩
          · exact hp'.1 e he
          · simp only; omega
  · intro c hc
    rcases Memory.mem_write hc with hc | ⟨rfl, hx⟩
    · exact hm.2 c hc
    · exact ⟨ha, hx⟩

/-! ## A state's bytes -/

theorem State.byteAt_eq (s : State) (a : Nat) : s.byteAt a = Memory.read (initByte s.params) s.mem a := rfl

/-- An update that keeps memory and parameters keeps every byte. -/
theorem State.byteAt_congr {s t : State} (hm : t.mem = s.mem) (hp : t.params = s.params) (a : Nat) :
    t.byteAt a = s.byteAt a := by
  rw [State.byteAt_eq, State.byteAt_eq, hm, hp]

theorem State.byteAt_setByte_other (s : State) {a b : Nat} (x : Byte) (h : b ≠ a) :
    (s.setByte a x).byteAt b = s.byteAt b :=
  Memory.read_write_other _ _ x h

theorem State.byteAt_setByte_same {s : State} (hm : Memory.wf (initByte s.params) s.mem) (a : Nat) (x : Byte) :
    (s.setByte a x).byteAt a = x :=
  Memory.read_write_same _ hm.1 a x

/-- Stores inside the address space keep the canonical form. -/
theorem State.setBytes_wf {s : State} (hm : Memory.wf (initByte s.params) s.mem) {a : Nat} {xs : List Byte}
    (ha : a + xs.length ≤ Config.memSize) : Memory.wf (initByte s.params) (s.setBytes a xs).mem := by
  induction xs generalizing s a with
  | nil => exact hm
  | cons x xs ih =>
    simp only [List.length_cons] at ha
    exact ih (s := s.setByte a x) (Memory.write_wf hm (by omega) x) (by omega)

/-- Every cell after a run of stores is an old cell or lies in the run. -/
theorem State.mem_setBytes {s : State} {a : Nat} {xs : List Byte} {c : Host.Cell} (h : c ∈ (s.setBytes a xs).mem) :
    c ∈ s.mem ∨ a ≤ c.1 ∧ c.1 < a + xs.length := by
  induction xs generalizing s a with
  | nil => exact .inl h
  | cons x xs ih =>
    simp only [List.length_cons]
    rcases ih h with h | h
    · rcases Memory.mem_write h with h | ⟨rfl, -⟩
      · exact .inl h
      · exact .inr ⟨Nat.le_refl _, by simp only; omega⟩
    · exact .inr ⟨by omega, by omega⟩

/-- A run of stores leaves every byte outside it alone. -/
theorem State.byteAt_setBytes_outside (s : State) {a b : Nat} (xs : List Byte) (h : b < a ∨ a + xs.length ≤ b) :
    (s.setBytes a xs).byteAt b = s.byteAt b := by
  induction xs generalizing s a with
  | nil => rfl
  | cons x xs ih =>
    simp only [List.length_cons] at h
    exact (ih _ (by omega)).trans (s.byteAt_setByte_other x (by omega))

/-- A run of stores puts its k-th byte at its k-th address. -/
theorem State.byteAt_setBytes_inside {s : State} (hm : Memory.wf (initByte s.params) s.mem) {a k : Nat}
    {xs : List Byte} (ha : a + xs.length ≤ Config.memSize) (hk : k < xs.length) :
    (s.setBytes a xs).byteAt (a + k) = xs[k] := by
  induction xs generalizing s a k with
  | nil => simp at hk
  | cons x xs ih =>
    simp only [List.length_cons] at ha hk
    have hm' : Memory.wf (initByte (s.setByte a x).params) (s.setByte a x).mem := Memory.write_wf hm (by omega) x
    cases k with
    | zero =>
      exact (State.byteAt_setBytes_outside _ xs (by omega)).trans (State.byteAt_setByte_same hm a x)
    | succ k =>
      have := ih (s := s.setByte a x) hm' (a := a + 1) (k := k) (by omega) (by omega)
      rw [State.setBytes, show a + (k + 1) = a + 1 + k by omega, this]
      rfl

@[simp] theorem State.length_bytesAt (s : State) (a n : Nat) : (s.bytesAt a n).length = n := by
  induction n generalizing a with
  | zero => rfl
  | succ n ih => simp [State.bytesAt, ih]

theorem State.getElem_bytesAt (s : State) (a n k : Nat) (hk : k < (s.bytesAt a n).length) :
    (s.bytesAt a n)[k] = s.byteAt (a + k) := by
  induction n generalizing a k with
  | zero => simp at hk
  | succ n ih =>
    cases k with
    | zero => rfl
    | succ k => simp only [State.bytesAt, List.getElem_cons_succ, ih]; congr 1; omega

/-! ## The range check -/

theorem addrFault_eq_none (acc : Access) (a : Nat) :
    addrFault acc a = none ↔ a < Config.memSize ∧ (acc = .write → Config.fontEnd ≤ a) := by
  unfold addrFault
  simp only [Config.memSize, Config.fontEnd]
  by_cases h1 : 0x1000 ≤ a
  · simp [h1]
  · by_cases h2 : acc = .write ∧ a < 0x050
    · simp [h1, h2]
    · simp only [h1, h2, if_false, true_iff]
      exact ⟨by omega, fun hw => by by_contra hlt; exact h2 ⟨hw, by omega⟩⟩

/-- The check passes exactly when every address of the range passes. -/
theorem rangeFault_eq_none (acc : Access) (a n : Nat) :
    rangeFault acc a n = none ↔
      n = 0 ∨ a + n ≤ Config.memSize ∧ (acc = .write → Config.fontEnd ≤ a) := by
  induction n generalizing a with
  | zero => simp [rangeFault]
  | succ n ih =>
    unfold rangeFault
    split
    · next c hc =>
      have : ¬ addrFault acc a = none := by simp [hc]
      rw [addrFault_eq_none] at this
      simp only [reduceCtorEq, false_iff, not_or, Nat.succ_ne_zero, not_false_eq_true, true_and]
      intro h
      exact this ⟨by have := h.1; simp only [Config.memSize] at *; omega, h.2⟩
    · next hc =>
      rw [addrFault_eq_none] at hc
      rw [ih]
      simp only [Config.memSize, Config.fontEnd] at *
      constructor
      · rintro (h | h)
        · exact .inr ⟨by omega, hc.2⟩
        · exact .inr ⟨by omega, hc.2⟩
      · rintro (h | h)
        · omega
        · exact .inr ⟨by omega, fun hw => by have := hc.2 hw; omega⟩

/-- A failing check names the lowest failing address: every address below it in the range passes. -/
theorem rangeFault_eq_some {acc : Access} {a n b : Nat} {c : Cause} (h : rangeFault acc a n = some (c, b)) :
    a ≤ b ∧ b < a + n ∧ addrFault acc b = some c ∧ ∀ d, a ≤ d → d < b → addrFault acc d = none := by
  induction n generalizing a with
  | zero => simp [rangeFault] at h
  | succ n ih =>
    unfold rangeFault at h
    split at h
    · next c' hc =>
      simp only [Option.some.injEq, Prod.mk.injEq] at h
      obtain ⟨rfl, rfl⟩ := h
      exact ⟨Nat.le_refl _, by omega, hc, fun d h1 h2 => by omega⟩
    · next hc =>
      obtain ⟨h1, h2, h3, h4⟩ := ih h
      refine ⟨by omega, by omega, h3, fun d hd1 hd2 => ?_⟩
      by_cases hda : d = a
      · exact hda ▸ hc
      · exact h4 d (by omega) hd2

/-- A range that leaves the address space and breaks no other rule faults at the first address outside it. -/
theorem rangeFault_outside {acc : Access} {a n : Nat} (hn : Config.memSize < a + n)
    (hf : acc = .write → Config.fontEnd ≤ a) (h0 : 0 < n) :
    rangeFault acc a n = some (.memoryOutOfRange, max a Config.memSize) := by
  induction n generalizing a with
  | zero => omega
  | succ n ih =>
    simp only [Config.memSize, Config.fontEnd] at *
    unfold rangeFault addrFault
    simp only [Config.memSize, Config.fontEnd]
    by_cases ha : 4096 ≤ a
    · simp [ha]
    · have hw : ¬ (acc = .write ∧ a < 80) := fun h => by have := hf h.1; omega
      simp only [ha, if_false, hw]
      rw [ih (by omega) (fun h => by have := hf h; omega) (by omega)]
      congr 2
      omega

/-- A write range that begins in the font faults at its first address. -/
theorem rangeFault_font {a n : Nat} (ha : a < Config.fontEnd) (h0 : 0 < n) :
    rangeFault .write a n = some (.fontWrite, a) := by
  obtain ⟨n, rfl⟩ := Nat.exists_eq_succ_of_ne_zero (Nat.ne_of_gt h0)
  simp only [Config.fontEnd] at ha
  unfold rangeFault addrFault
  simp [ha, show ¬ 4096 ≤ a by omega]

/-- All that an instruction behind a range check can do: its effect when the check passes, else the fault of the lowest
failing address and nothing more. -/
theorem State.withRange_cases {s t : State} {acc : Access} {a n : Nat} {f : State → State}
    (h : s.withRange acc a n f = .next t) :
    rangeFault acc a n = none ∧ t = f s ∨
      ∃ c b, rangeFault acc a n = some (c, b) ∧ t = s.raiseAt (s.pc - 2) c (BitVec.ofNat 16 b) := by
  unfold State.withRange at h
  split at h
  · next c b hr => exact .inr ⟨c, b, hr, by simpa using h.symm⟩
  · next hr => exact .inl ⟨hr, by simpa using h.symm⟩

theorem State.withRange_ok (s : State) {acc : Access} {a n : Nat} (f : State → State)
    (h : n = 0 ∨ a + n ≤ Config.memSize ∧ (acc = .write → Config.fontEnd ≤ a)) :
    s.withRange acc a n f = .next (f s) := by
  unfold State.withRange
  rw [(rangeFault_eq_none acc a n).2 h]

theorem State.withRange_fault (s : State) {acc : Access} {a n b : Nat} {c : Cause} (f : State → State)
    (h : rangeFault acc a n = some (c, b)) :
    s.withRange acc a n f = .next (s.raiseAt (s.pc - 2) c (BitVec.ofNat 16 b)) := by
  unfold State.withRange
  rw [h]
  rfl

end Sys2Proof.Machine
end

