-- ==== Sys2Proof/Laws/PerInstr.lean ====
section
/-! SUPPORT. The per-instruction family `TableRow`: an instruction's word has its opcode-table row's fixed bits. -/

namespace Sys2Proof.Laws.TableRow

/-- The encoding of `i`, under its row's mask, is its row's match (spec/opcode_table.json). -/
def Statement (i : Instr) : Prop := encode i &&& i.tableRow.2 = i.tableRow.1

/-! ## What each mask keeps of each format -/

theorem formatA_F000 (f : Nibble) (nnn : Addr) : formatA f nnn &&& 0xF000#16 = place 12 f := by
  ext i h; interval_cases i <;> simp [formatA, place]

theorem formatXNN_F000 (f : Nibble) (x : RegIdx) (nn : Byte) : formatXNN f x nn &&& 0xF000#16 = place 12 f := by
  ext i h; interval_cases i <;> simp [formatXNN, place]

theorem formatXNN_F0FF (f : Nibble) (x : RegIdx) (nn : Byte) :
    formatXNN f x nn &&& 0xF0FF#16 = place 12 f ||| place 0 nn := by
  ext i h; interval_cases i <;> simp [formatXNN, place]

theorem formatXYN_F000 (f : Nibble) (x y : RegIdx) (n : Nibble) : formatXYN f x y n &&& 0xF000#16 = place 12 f := by
  ext i h; interval_cases i <;> simp [formatXYN, place]

theorem formatXYN_F00F (f : Nibble) (x y : RegIdx) (n : Nibble) :
    formatXYN f x y n &&& 0xF00F#16 = place 12 f ||| place 0 n := by
  ext i h; interval_cases i <;> simp [formatXYN, place]

/-! ## One lemma per constructor -/

theorem cls : Statement .cls := by unfold Statement; decide

theorem ret : Statement .ret := by unfold Statement; decide

theorem sys (nnn : Addr) : Statement (.sys nnn) := (formatA_F000 0x0 nnn).trans rfl

theorem jp (nnn : Addr) : Statement (.jp nnn) := (formatA_F000 0x1 nnn).trans rfl

theorem call (nnn : Addr) : Statement (.call nnn) := (formatA_F000 0x2 nnn).trans rfl

theorem seImm (x : RegIdx) (nn : Byte) : Statement (.seImm x nn) := (formatXNN_F000 0x3 x nn).trans rfl

theorem sneImm (x : RegIdx) (nn : Byte) : Statement (.sneImm x nn) := (formatXNN_F000 0x4 x nn).trans rfl

theorem seReg (x y : RegIdx) : Statement (.seReg x y) := (formatXYN_F00F 0x5 x y 0x0).trans rfl

theorem ldImm (x : RegIdx) (nn : Byte) : Statement (.ldImm x nn) := (formatXNN_F000 0x6 x nn).trans rfl

theorem addImm (x : RegIdx) (nn : Byte) : Statement (.addImm x nn) := (formatXNN_F000 0x7 x nn).trans rfl

theorem ldReg (x y : RegIdx) : Statement (.ldReg x y) := (formatXYN_F00F 0x8 x y 0x0).trans rfl

theorem orReg (x y : RegIdx) : Statement (.orReg x y) := (formatXYN_F00F 0x8 x y 0x1).trans rfl

theorem andReg (x y : RegIdx) : Statement (.andReg x y) := (formatXYN_F00F 0x8 x y 0x2).trans rfl

theorem xorReg (x y : RegIdx) : Statement (.xorReg x y) := (formatXYN_F00F 0x8 x y 0x3).trans rfl

theorem addReg (x y : RegIdx) : Statement (.addReg x y) := (formatXYN_F00F 0x8 x y 0x4).trans rfl

theorem subReg (x y : RegIdx) : Statement (.subReg x y) := (formatXYN_F00F 0x8 x y 0x5).trans rfl

theorem shr (x y : RegIdx) : Statement (.shr x y) := (formatXYN_F00F 0x8 x y 0x6).trans rfl

theorem subnReg (x y : RegIdx) : Statement (.subnReg x y) := (formatXYN_F00F 0x8 x y 0x7).trans rfl

theorem shl (x y : RegIdx) : Statement (.shl x y) := (formatXYN_F00F 0x8 x y 0xE).trans rfl

theorem sneReg (x y : RegIdx) : Statement (.sneReg x y) := (formatXYN_F00F 0x9 x y 0x0).trans rfl

theorem ldI (nnn : Addr) : Statement (.ldI nnn) := (formatA_F000 0xA nnn).trans rfl

theorem jpV0 (nnn : Addr) : Statement (.jpV0 nnn) := (formatA_F000 0xB nnn).trans rfl

theorem rnd (x : RegIdx) (nn : Byte) : Statement (.rnd x nn) := (formatXNN_F000 0xC x nn).trans rfl

theorem drw (x y : RegIdx) (n : Nibble) : Statement (.drw x y n) := (formatXYN_F000 0xD x y n).trans rfl

theorem skp (x : RegIdx) : Statement (.skp x) := (formatXNN_F0FF 0xE x 0x9E).trans rfl

theorem sknp (x : RegIdx) : Statement (.sknp x) := (formatXNN_F0FF 0xE x 0xA1).trans rfl

theorem ldVxDt (x : RegIdx) : Statement (.ldVxDt x) := (formatXNN_F0FF 0xF x 0x07).trans rfl

theorem ldVxKey (x : RegIdx) : Statement (.ldVxKey x) := (formatXNN_F0FF 0xF x 0x0A).trans rfl

theorem ldDtVx (x : RegIdx) : Statement (.ldDtVx x) := (formatXNN_F0FF 0xF x 0x15).trans rfl

theorem ldStVx (x : RegIdx) : Statement (.ldStVx x) := (formatXNN_F0FF 0xF x 0x18).trans rfl

theorem addI (x : RegIdx) : Statement (.addI x) := (formatXNN_F0FF 0xF x 0x1E).trans rfl

theorem ldFont (x : RegIdx) : Statement (.ldFont x) := (formatXNN_F0FF 0xF x 0x29).trans rfl

theorem bcd (x : RegIdx) : Statement (.bcd x) := (formatXNN_F0FF 0xF x 0x33).trans rfl

theorem store (x : RegIdx) : Statement (.store x) := (formatXNN_F0FF 0xF x 0x55).trans rfl

theorem load (x : RegIdx) : Statement (.load x) := (formatXNN_F0FF 0xF x 0x65).trans rfl

end Sys2Proof.Laws.TableRow
end

