-- ==== Sys2Proof/Laws/Registers.lean ====
section
/-! SUPPORT. The laws of the register file, the key check and the report, fault and policy operations. -/

namespace Sys2Proof.Machine

theorem State.reg_eq (s : State) (x : RegIdx) : s.reg x = s.v[x] := rfl

@[simp] theorem State.reg_setReg_same (s : State) (x : RegIdx) (b : Byte) : (s.setReg x b).reg x = b := by
  simp [State.reg]

theorem State.reg_setReg_other (s : State) {x y : RegIdx} (b : Byte) (h : y ≠ x) :
    (s.setReg x b).reg y = s.reg y := by
  have : x.val ≠ y.val := fun e => h (Fin.ext e.symm)
  simp [State.reg, this]

theorem State.reg_setReg (s : State) (x y : RegIdx) (b : Byte) :
    (s.setReg x b).reg y = if y = x then b else s.reg y := by
  split
  · next h => subst h; simp
  · next h => exact s.reg_setReg_other b h

/-- An update that keeps the register file keeps every register. -/
theorem State.reg_congr {s t : State} (h : t.v = s.v) (x : RegIdx) : t.reg x = s.reg x := by
  rw [State.reg_eq, State.reg_eq, h]

/-- The first `n` registers hold the bytes from `a` on; the others are as they were. -/
theorem State.reg_loadRegs (s : State) (a n : Nat) (hn : n ≤ 16) (k : RegIdx) :
    (s.loadRegs a n).reg k = if k.val < n then s.byteAt (a + k.val) else s.reg k := by
  induction n with
  | zero => simp [State.loadRegs]
  | succ n ih =>
    rw [State.loadRegs, State.reg_setReg, ih (by omega)]
    have hv : (Fin.ofNat 16 n).val = n := Nat.mod_eq_of_lt (by omega)
    by_cases hk : k.val = n
    · have : k = Fin.ofNat 16 n := Fin.ext (hk.trans hv.symm)
      rw [if_pos this, if_pos (by omega), hk]
    · have : ¬ k = Fin.ofNat 16 n := fun e => hk (by rw [e, hv])
      rw [if_neg this]
      by_cases hlt : k.val < n
      · rw [if_pos hlt, if_pos (by omega)]
      · rw [if_neg hlt, if_neg (by omega)]

@[simp] theorem State.length_regsTo (s : State) (x : RegIdx) : (s.regsTo x).length = x.val + 1 := by
  have := x.isLt
  simp [State.regsTo]

theorem State.getElem_regsTo (s : State) (x k : RegIdx) (h : k.val < (s.regsTo x).length) :
    (s.regsTo x)[k.val] = s.reg k := by
  simp [State.regsTo, State.reg]

@[simp] theorem length_bcdDigits (b : Byte) : (bcdDigits b).length = 3 := rfl

theorem flagByte_eq (c : Bool) : flagByte c = if c then 1 else 0 := rfl

/-! ## The key check -/

theorem keyIndex_of_lt {b : Byte} (h : b.toNat < 16) : keyIndex b = some ⟨b.toNat, h⟩ := dif_pos h

theorem keyIndex_of_ge {b : Byte} (h : 16 ≤ b.toNat) : keyIndex b = none := dif_neg (by omega)

theorem State.withKey_ok (s : State) {b : Byte} (f : RegIdx → State → State) (h : b.toNat < 16) :
    s.withKey b f = .next (f ⟨b.toNat, h⟩ s) := by
  unfold State.withKey
  rw [keyIndex_of_lt h]

theorem State.withKey_fault (s : State) {b : Byte} (f : RegIdx → State → State) (h : 16 ≤ b.toNat) :
    s.withKey b f = .next (s.raiseAt (s.pc - 2) .keyOutOfRange (zextByte b)) := by
  unfold State.withKey
  rw [keyIndex_of_ge h]
  rfl

/-- All that a key instruction can do. -/
theorem State.withKey_cases {s t : State} {b : Byte} {f : RegIdx → State → State} (h : s.withKey b f = .next t) :
    (∃ hb : b.toNat < 16, t = f ⟨b.toNat, hb⟩ s) ∨
      16 ≤ b.toNat ∧ t = s.raiseAt (s.pc - 2) .keyOutOfRange (zextByte b) := by
  by_cases hb : b.toNat < 16
  · rw [s.withKey_ok f hb] at h
    exact .inl ⟨hb, by simpa using h.symm⟩
  · rw [s.withKey_fault f (by omega)] at h
    exact .inr ⟨by omega, by simpa using h.symm⟩

/-! ## The policy -/

theorem State.illegal_continues {s : State} (h : s.params.illegalPolicy = .continues) (c : Cause) (w : Word) :
    s.illegal c w = s.emit (.report c.code (s.pc - 2) w) := by
  unfold State.illegal
  rw [h]
  rfl

theorem State.illegal_halts {s : State} (h : s.params.illegalPolicy = .halts) (c : Cause) (w : Word) :
    s.illegal c w = s.raiseAt (s.pc - 2) c w := by
  unfold State.illegal
  rw [h]
  rfl

/-- All that an illegal word can do. -/
theorem State.illegal_cases (s : State) (c : Cause) (w : Word) :
    s.params.illegalPolicy = .continues ∧ s.illegal c w = s.emit (.report c.code (s.pc - 2) w) ∨
      s.params.illegalPolicy = .halts ∧ s.illegal c w = s.raiseAt (s.pc - 2) c w := by
  cases h : s.params.illegalPolicy with
  | continues => exact .inl ⟨rfl, s.illegal_continues h c w⟩
  | halts => exact .inr ⟨rfl, s.illegal_halts h c w⟩

/-- The model's fault entry is the one claims are stated with. -/
theorem State.raiseAt_eq_faulted (s : State) (a : Word) (c : Cause) (w : Word) :
    s.raiseAt a c w = s.faulted a c.code w := rfl

/-! ## The random input -/

theorem State.takeDraw_record (s : State) :
    s.takeDraw = { s with rndIn := s.takeDraw.rndIn, draws := s.takeDraw.draws } := by
  apply State.ext <;> simp

end Sys2Proof.Machine
end

