-- ==== Sys2Proof/Laws/Sprite.lean ====
section
/-! SUPPORT. What drawing one bit and one row does to each pixel and to the collision bit (spec 42_display.md R161). -/

namespace Sys2Proof.Machine

/-- One bit: its pixel is XORed, every other pixel stays. -/
theorem Canvas.drawBit_pixel (c : Canvas) (tx : Fin 64) (ty : Fin 32) (b : Bool) (y : Fin 32) (x : Fin 64) :
    (c.drawBit tx ty b).disp[y][x] = if y = ty ∧ x = tx then (c.disp[y][x] ^^ b) else c.disp[y][x] := by
  by_cases hy : y = ty
  · subst hy
    by_cases hx : x = tx
    · subst hx; simp [Canvas.drawBit]
    · have : tx.val ≠ x.val := fun e => hx (Fin.ext e.symm)
      simp [Canvas.drawBit, hx, this]
  · have : ty.val ≠ y.val := fun e => hy (Fin.ext e.symm)
    simp [Canvas.drawBit, hy, this]

/-- One bit: a collision is recorded when a 1 bit meets a set pixel (R162). -/
theorem Canvas.drawBit_collided (c : Canvas) (tx : Fin 64) (ty : Fin 32) (b : Bool) :
    (c.drawBit tx ty b).collided = (c.collided || (b && c.disp[ty][tx])) := by
  simp only [Canvas.drawBit]
  cases b <;> cases c.disp[ty][tx] <;> rfl

theorem Canvas.drawBits_succ (c : Canvas) (x : Nat) (ty : Fin 32) (byte : Byte) (j : Nat) :
    c.drawBits x ty byte (j + 1) =
      (c.drawBits x ty byte j).drawBit (Fin.ofNat 64 (x + j)) ty (byte.getLsbD (7 - j)) := rfl

theorem Canvas.drawRows_cons (x : Nat) (c : Canvas) (y : Nat) (byte : Byte) (rows : List Byte) :
    Canvas.drawRows x c y (byte :: rows) =
      Canvas.drawRows x (c.drawBits x (Fin.ofNat 32 y) byte 8) (y + 1) rows := rfl

/-- The columns of a sprite byte are distinct: at most one of the first `k <= 8` bits is drawn at a column (R162). -/
theorem column_inj {x j k : Nat} (hj : j < 8) (hk : k < 8) (h : Fin.ofNat 64 (x + j) = Fin.ofNat 64 (x + k)) :
    j = k := by
  have := congrArg Fin.val h
  simp only [Fin.ofNat] at this
  omega

/-- The rows of a sprite are distinct (R162). -/
theorem row_inj {y i k : Nat} (hi : i < 32) (hk : k < 32) (h : Fin.ofNat 32 (y + i) = Fin.ofNat 32 (y + k)) :
    i = k := by
  have := congrArg Fin.val h
  simp only [Fin.ofNat] at this
  omega

/-- One row leaves every other row alone. -/
theorem Canvas.drawBits_other_row (c : Canvas) (x : Nat) {ty y : Fin 32} (byte : Byte) (k : Nat) (h : y ≠ ty) :
    (c.drawBits x ty byte k).disp[y] = c.disp[y] := by
  have : ty.val ≠ y.val := fun e => h (Fin.ext e.symm)
  induction k with
  | zero => rfl
  | succ k ih => rw [← ih, Canvas.drawBits_succ]; simp [Canvas.drawBit, this]

end Sys2Proof.Machine
end

