-- ==== Sys2Proof/Laws/Step.lean ====
section
/-! SUPPORT. What one step can do, said once: by event, and for a cycle by the dispatcher's state. -/

namespace Sys2Proof.Machine

/-! ## The next event -/

theorem State.nextEvent_eq (s : State) : s.nextEvent = s.events.next := rfl

theorem State.nextEvent_prepend {s : State} {q : EventStream} {e : Event} {es : List Event}
    (h : s.events = q.prepend (e :: es)) : s.nextEvent = e := by rw [State.nextEvent_eq, h]; rfl

@[simp] theorem EventStream.prepend_nil (q : EventStream) : q.prepend [] = q := rfl

@[simp] theorem EventStream.next_prepend (q : EventStream) (e : Event) (es : List Event) :
    (q.prepend (e :: es)).next = e := rfl

@[simp] theorem EventStream.rest_prepend (q : EventStream) (e : Event) (es : List Event) :
    (q.prepend (e :: es)).rest = q.prepend es := rfl

@[simp] theorem EventStream.drop_zero (q : EventStream) : q.drop 0 = q := rfl

@[simp] theorem EventStream.drop_succ (q : EventStream) (n : Nat) : q.drop (n + 1) = q.rest.drop n := rfl

/-- Taking the event after `n` events is taking `n + 1`. -/
theorem EventStream.rest_drop (q : EventStream) (n : Nat) : (q.drop n).rest = q.drop (n + 1) := by
  induction n generalizing q with
  | zero => rfl
  | succ n ih => exact ih q.rest

@[simp] theorem Source.next_repeating (e : Event) (es : List Event) : (Source.repeating e es).next = e := rfl

@[simp] theorem Source.next_free (n : Nat) : (Source.free n).next = Config.freeEvent n := rfl

@[simp] theorem Source.rest_free (n : Nat) : (Source.free n).rest = .free (n + 1) := rfl

@[simp] theorem EventStream.next_source (a : Source) : EventStream.next { listed := [], after := a } = a.next := rfl

@[simp] theorem EventStream.rest_source (a : Source) :
    EventStream.rest { listed := [], after := a } = { listed := [], after := a.rest } := rfl

/-- A step is the next event applied to the state it is taken from. -/
theorem step_eq (s : State) : step s = applyEvent s.nextEvent s.takeEvent := rfl

/-- All that a step can do, by event (60_exceptions.md R234). -/
theorem step_cases {s t : State} (h : step s = .next t) :
    (∃ rom, s.nextEvent = .reset rom ∧ rom.length ≤ Config.maxRom ∧
        t = s.takeEvent.cleared.setBytes Config.progBase rom) ∨
      (s.nextEvent = .cycle ∧ cycle s.takeEvent = .next t) ∨
      (s.nextEvent = .tick ∧ t = tick s.takeEvent) ∨
      (∃ k p, s.nextEvent = .key k p ∧ t = keyEvent k p s.takeEvent) ∨
      (s.nextEvent = .quit ∧ t = quit s.takeEvent) := by
  rw [step_eq] at h
  cases he : s.nextEvent with
  | reset rom =>
    rw [he] at h
    simp only [applyEvent, resetEvent] at h
    split at h
    · next hl => exact .inl ⟨rom, rfl, hl, by simpa using h.symm⟩
    · cases h
  | cycle => rw [he] at h; exact .inr (.inl ⟨rfl, h⟩)
  | tick => rw [he] at h; exact .inr (.inr (.inl ⟨rfl, by simpa [applyEvent] using h.symm⟩))
  | key k p => rw [he] at h; exact .inr (.inr (.inr (.inl ⟨k, p, rfl, by simpa [applyEvent] using h.symm⟩)))
  | quit => rw [he] at h; exact .inr (.inr (.inr (.inr ⟨rfl, by simpa [applyEvent] using h.symm⟩)))

/-- A run of one step more is that step and the run from there. -/
theorem run_succ {M : Host.Core} {s t : M.State} (h : M.step s = .next t) (n : Nat) : M.run (n + 1) s = M.run n t := by
  simp only [Host.Core.run, h]

/-- The last step of a run that has one. -/
theorem run_last {M : Host.Core} {s u : M.State} {n : Nat} (h : M.run (n + 1) s = .next u) :
    ∃ t, M.run n s = .next t ∧ M.step t = .next u := by
  induction n generalizing s with
  | zero =>
    refine ⟨s, rfl, ?_⟩
    cases hs : M.step s <;> simp [Host.Core.run, hs] at h ⊢
    exact h
  | succ n ih =>
    cases hs : M.step s with
    | next s' =>
      rw [run_succ hs] at h
      obtain ⟨t, ht, hu⟩ := ih h
      exact ⟨t, by rw [run_succ hs, ht], hu⟩
    | fault r => simp [Host.Core.run, hs] at h
    | refused r => simp [Host.Core.run, hs] at h

/-! ## The cycle -/

theorem cycle_ready {s : State} (h : s.dstate = .ready) : cycle s = readyCycle s := by
  unfold cycle; rw [h]

theorem cycle_idle {s : State} (h : s.dstate ≠ .ready) : cycle s = .next s := by
  unfold cycle; split <;> first | rfl | exact absurd ‹_› h

/-- All that a cycle can do (30_encoding.md R90 to R92). -/
theorem cycle_cases {s t : State} (h : cycle s = .next t) :
    (s.dstate ≠ .ready ∧ t = s) ∨
      (s.dstate = .ready ∧ Config.memSize ≤ s.pc.toNat + 1 ∧ t = s.raiseAt s.pc .pcOutOfRange s.pc) ∨
      (s.dstate = .ready ∧ s.pc.toNat + 1 < Config.memSize ∧
        ∃ i, decode (s.wordAt s.pc.toNat) = .instr i ∧ exec i s.advance = .next t) ∨
      (s.dstate = .ready ∧ s.pc.toNat + 1 < Config.memSize ∧
        ∃ op, decode (s.wordAt s.pc.toNat) = .unsupported op ∧ t = s.advance.illegal .unsupportedOpcode op) := by
  by_cases hr : s.dstate = .ready
  · rw [cycle_ready hr, readyCycle] at h
    split at h
    · next hp => exact .inr (.inl ⟨hr, hp, by simpa using h.symm⟩)
    · next hp =>
      cases hd : decode (s.wordAt s.pc.toNat) with
      | instr i => rw [hd] at h; exact .inr (.inr (.inl ⟨hr, by omega, i, rfl, h⟩))
      | unsupported op =>
        rw [hd] at h
        exact .inr (.inr (.inr ⟨hr, by omega, op, rfl, by simpa [execDecoded, execUnsupported] using h.symm⟩))
  · rw [cycle_idle hr] at h
    exact .inl ⟨hr, by simpa using h.symm⟩

/-! ## Events -/

@[simp] theorem cleared_params (s : State) : s.cleared.params = s.params := rfl
@[simp] theorem cleared_mem (s : State) : s.cleared.mem = [] := rfl

theorem tick_ready {s : State} (h : s.dstate = .ready) :
    tick s = (s.setDt (countDown s.dt)).setSt (countDown s.st) := by
  unfold tick; rw [h]

theorem tick_idle {s : State} (h : s.dstate ≠ .ready) : tick s = s := by
  unfold tick; split <;> first | rfl | exact absurd ‹_› h

/-- A count goes down by one, with a floor at 0 (60_exceptions.md R236). -/
theorem toNat_countDown (b : Byte) : (countDown b).toNat = b.toNat - 1 := by
  unfold countDown
  split
  · next h => rw [BitVec.toNat_sub_of_le (by rw [BitVec.le_def]; exact h)]; rfl
  · next h => omega

end Sys2Proof.Machine
end

