-- ==== Sys2Proof/Tests/Slice0.lean ====
section
/-! SUPPORT. The model's own tests: the WellFormed smoke tests, one word of every row decoded, and single steps whose
results are the vectors of spec/95_test_vectors.md (the vector's number stands above each). -/

namespace Sys2Proof.Tests

-- One theorem after the other: the joined package must not ask for a thread for each.
set_option Elab.async false

open Sys2Proof.Machine

/-! ## Ill-formed terms are refused (30_encoding.md R86) -/

theorem test_wf_refuses_0E0 : (Instr.sys 0x0E0).wf = false := by decide
theorem test_wf_refuses_0EE : (Instr.sys 0x0EE).wf = false := by decide
theorem test_wf_accepts_neighbour : (Instr.sys 0x0E1).wf = true := by decide

/-! ## Every row's word, written out from the patterns of 30_encoding.md R82 -/

theorem test_decode_cls : decode 0b0000_0000_1110_0000#16 = .instr .cls := by decide
theorem test_decode_ret : decode 0b0000_0000_1110_1110#16 = .instr .ret := by decide
theorem test_decode_sys : decode 0b0000_0001_0010_0011#16 = .instr (.sys 0x123) := by decide
theorem test_decode_jp : decode 0b0001_1010_1011_1100#16 = .instr (.jp 0xABC) := by decide
theorem test_decode_call : decode 0b0010_0100_0000_0001#16 = .instr (.call 0x401) := by decide
theorem test_decode_seImm : decode 0b0011_0101_0100_0010#16 = .instr (.seImm 5 0x42) := by decide
theorem test_decode_sneImm : decode 0b0100_0101_0100_0010#16 = .instr (.sneImm 5 0x42) := by decide
theorem test_decode_seReg : decode 0b0101_0001_0010_0000#16 = .instr (.seReg 1 2) := by decide
theorem test_decode_ldImm : decode 0b0110_1010_0000_0101#16 = .instr (.ldImm 10 0x05) := by decide
theorem test_decode_addImm : decode 0b0111_1010_1111_1010#16 = .instr (.addImm 10 0xFA) := by decide
theorem test_decode_ldReg : decode 0b1000_0001_0010_0000#16 = .instr (.ldReg 1 2) := by decide
theorem test_decode_orReg : decode 0b1000_0001_0010_0001#16 = .instr (.orReg 1 2) := by decide
theorem test_decode_andReg : decode 0b1000_0001_0010_0010#16 = .instr (.andReg 1 2) := by decide
theorem test_decode_xorReg : decode 0b1000_0001_0010_0011#16 = .instr (.xorReg 1 2) := by decide
theorem test_decode_addReg : decode 0b1000_0001_0010_0100#16 = .instr (.addReg 1 2) := by decide
theorem test_decode_subReg : decode 0b1000_0001_0010_0101#16 = .instr (.subReg 1 2) := by decide
theorem test_decode_shr : decode 0b1000_0001_0010_0110#16 = .instr (.shr 1 2) := by decide
theorem test_decode_subnReg : decode 0b1000_0001_0010_0111#16 = .instr (.subnReg 1 2) := by decide
theorem test_decode_shl : decode 0b1000_1111_0010_1110#16 = .instr (.shl 15 2) := by decide
theorem test_decode_sneReg : decode 0b1001_0001_0010_0000#16 = .instr (.sneReg 1 2) := by decide
theorem test_decode_ldI : decode 0b1010_0001_0010_0011#16 = .instr (.ldI 0x123) := by decide
theorem test_decode_jpV0 : decode 0b1011_0011_0000_0001#16 = .instr (.jpV0 0x301) := by decide
theorem test_decode_rnd : decode 0b1100_0101_0000_1111#16 = .instr (.rnd 5 0x0F) := by decide
theorem test_decode_drw : decode 0b1101_0001_0010_0101#16 = .instr (.drw 1 2 5) := by decide
theorem test_decode_skp : decode 0b1110_0101_1001_1110#16 = .instr (.skp 5) := by decide
theorem test_decode_sknp : decode 0b1110_0101_1010_0001#16 = .instr (.sknp 5) := by decide
theorem test_decode_ldVxDt : decode 0b1111_0011_0000_0111#16 = .instr (.ldVxDt 3) := by decide
theorem test_decode_ldVxKey : decode 0b1111_0100_0000_1010#16 = .instr (.ldVxKey 4) := by decide
theorem test_decode_ldDtVx : decode 0b1111_0010_0001_0101#16 = .instr (.ldDtVx 2) := by decide
theorem test_decode_ldStVx : decode 0b1111_0010_0001_1000#16 = .instr (.ldStVx 2) := by decide
theorem test_decode_addI : decode 0b1111_0101_0001_1110#16 = .instr (.addI 5) := by decide
theorem test_decode_ldFont : decode 0b1111_0101_0010_1001#16 = .instr (.ldFont 5) := by decide
theorem test_decode_bcd : decode 0b1111_0101_0011_0011#16 = .instr (.bcd 5) := by decide
theorem test_decode_store : decode 0b1111_0010_0101_0101#16 = .instr (.store 2) := by decide
theorem test_decode_load : decode 0b1111_0010_0110_0101#16 = .instr (.load 2) := by decide

/-- R87 to R89: reserved words next to defined ones, and bytes that are too few. -/
theorem test_decode_unsupported :
    [0x5121#16, 0x9121#16, 0x8008#16, 0x800F#16, 0xE5A0#16, 0xF500#16, 0xF566#16].all
      (fun op => decode op == .unsupported op) = true := by decide

theorem test_decodeBytes_truncated : decodeBytes [0x12] = .error .truncated := by rfl

/-- The high byte is the one at the lower address (20_memory.md R64). -/
theorem test_decodeBytes_order : decodeBytes [0x12, 0x34, 0x56] = .ok (.jp 0x234, [0x56]) := by rfl

theorem test_table_word : decodeTableWord 16 0x8F2E = some (.shl 15 2) := by decide

/-! ## Single steps -/

/-- The start state of the vectors: reset, with the registers named. -/
def start (rs : List (RegIdx × Byte)) : State := rs.foldl (fun s p => s.setReg p.1 p.2) State.reset

/-- `s` with bytes at an address. -/
def withBytes (a : Nat) (bs : List Byte) (s : State) : State := s.setBytes a bs

/-- What a step's next state shows; none for a stop. -/
def shows {α : Type} (f : State → α) (r : Result) : Option α :=
  match r with
  | .next t => some (f t)
  | .fault _ => none
  | .refused _ => none

/-- One cycle of `op` at the state's pc. -/
def ran {α : Type} (op : Word) (s : State) (f : State → α) : Option α := shows f (step (s.placeWord op))

/-- One event. -/
def took {α : Type} (e : Event) (s : State) (f : State → α) : Option α := shows f (step { s with events := s.events.prepend [e] })

/-- VX, VF and pc. -/
def xfp (x : RegIdx) (t : State) : Byte × Byte × Word := (t.reg x, t.reg vF, t.pc)

/-- A halted state's FSR, pc and number of outputs. -/
def failure (t : State) : DState × Fsr × Word × Nat := (t.dstate, t.fsr, t.pc, t.out.length)

-- E1
theorem test_sys_reports : ran 0x0123 State.reset (fun t => (t.out, t.pc, t.dstate, t.fsr)) =
    some ([.report 5 0x200 0x0123], 0x202, .ready, { cause := 0, fpc := 0, info := 0 }) := by decide +kernel
-- E11
theorem test_sys_halts :
    ran 0x0123 { State.reset with params := { defaultParams with illegalPolicy := .halts } } failure =
      some (.halted, { cause := 5, fpc := 0x200, info := 0x0123 }, 0x202, 1) := by decide +kernel
-- E4
theorem test_unsupported_reports : ran 0x5121 State.reset (fun t => (t.out, t.pc, t.dstate)) =
    some ([.report 4 0x200 0x5121], 0x202, .ready) := by decide +kernel
-- E10
theorem test_unsupported_halts :
    ran 0x5121 { State.reset with params := { defaultParams with illegalPolicy := .halts } } failure =
      some (.halted, { cause := 4, fpc := 0x200, info := 0x5121 }, 0x202, 1) := by decide +kernel
-- E12
theorem test_fetch_fault : shows failure (step { State.reset with pc := 0xFFF }) =
    some (.halted, { cause := 1, fpc := 0xFFF, info := 0xFFF }, 0xFFF, 1) := by decide +kernel
-- E13
theorem test_fetch_at_the_top : ran 0x3000 { State.reset with pc := 0xFFE } (fun t => (t.pc, t.dstate)) =
    some (0x1002, .ready) := by decide +kernel
-- E15
theorem test_odd_pc : ran 0x1234 { State.reset with pc := 0x201 } (fun t => t.pc) = some 0x234 := by decide +kernel
-- E17
theorem test_halted_cycle : ran 0x6A05 State.reset (fun t => t.dstate) = some .ready ∧
    shows (fun t => (t.pc, t.dstate)) (step { State.reset with dstate := .halted }) = some (0x200, .halted) := by
  decide +kernel
-- F1
theorem test_jp : ran 0x1ABC State.reset (fun t => (t.pc, t.stack)) = some (0xABC, []) := by decide +kernel
-- F6
theorem test_call_sixteenth :
    ran 0x2300 { State.reset with stack := List.replicate 15 0x444 } (fun t => (t.stack.length, t.stack.getLast?, t.pc)) =
      some (16, some 0x202, 0x300) := by decide +kernel
-- F7
theorem test_call_overflow :
    ran 0x2300 { State.reset with stack := List.replicate 16 0x444 } (fun t => (failure t, t.stack.length)) =
      some ((.halted, { cause := 2, fpc := 0x200, info := 0x300 }, 0x202, 1), 16) := by decide +kernel
-- F4
theorem test_ret : ran 0x00EE { State.reset with pc := 0x400, stack := [0x123, 0x202] } (fun t => (t.stack, t.pc)) =
    some ([0x123], 0x202) := by decide +kernel
-- F5
theorem test_ret_underflow : ran 0x00EE State.reset failure =
    some (.halted, { cause := 3, fpc := 0x200, info := 0 }, 0x202, 1) := by decide +kernel
-- F8, F9
theorem test_seImm : ran 0x3542 (start [(5, 0x42)]) (fun t => t.pc) = some 0x204 := by decide +kernel
theorem test_seImm_not : ran 0x3542 (start [(5, 0x43)]) (fun t => t.pc) = some 0x202 := by decide +kernel
-- F10, F11
theorem test_sneImm_not : ran 0x4542 (start [(5, 0x42)]) (fun t => t.pc) = some 0x202 := by decide +kernel
theorem test_sneImm : ran 0x4542 (start [(5, 0x43)]) (fun t => t.pc) = some 0x204 := by decide +kernel
-- F12, F13
theorem test_seReg : ran 0x5120 (start [(1, 7), (2, 7)]) (fun t => t.pc) = some 0x204 := by decide +kernel
theorem test_seReg_not : ran 0x5120 (start [(1, 7), (2, 8)]) (fun t => t.pc) = some 0x202 := by decide +kernel
-- F14, F15
theorem test_sneReg : ran 0x9120 (start [(1, 7), (2, 8)]) (fun t => t.pc) = some 0x204 := by decide +kernel
theorem test_sneReg_not : ran 0x9120 (start [(1, 7), (2, 7)]) (fun t => t.pc) = some 0x202 := by decide +kernel
-- F18
theorem test_jpV0_unmasked : ran 0xBFFF (start [(0, 0xFF), (15, 1)]) (fun t => t.pc) = some 0x10FE := by decide +kernel
-- A1, A2
theorem test_ldImm : ran 0x6A05 (start [(15, 0x55)]) (xfp 10) = some (0x05, 0x55, 0x202) := by decide +kernel
theorem test_ldImm_vF : ran 0x6F00 (start [(15, 1)]) (xfp 15) = some (0, 0, 0x202) := by decide +kernel
-- A4, A5
theorem test_addImm : ran 0x7A01 (start [(10, 0xFF), (15, 0x55)]) (xfp 10) = some (0, 0x55, 0x202) := by decide +kernel
theorem test_addImm_vF : ran 0x7F01 (start [(15, 0xFF)]) (xfp 15) = some (0, 0, 0x202) := by decide +kernel
-- A6 to A9
theorem test_ldReg : ran 0x8120 (start [(1, 0x12), (2, 0x34), (15, 0x55)]) (xfp 1) = some (0x34, 0x55, 0x202) := by
  decide +kernel
theorem test_orReg : ran 0x8121 (start [(1, 0xF0), (2, 0x0F), (15, 0x55)]) (xfp 1) = some (0xFF, 0x55, 0x202) := by
  decide +kernel
theorem test_andReg : ran 0x8122 (start [(1, 0xF0), (2, 0x3C), (15, 0x55)]) (xfp 1) = some (0x30, 0x55, 0x202) := by
  decide +kernel
theorem test_xorReg : ran 0x8123 (start [(1, 0xFF), (2, 0x0F), (15, 0x55)]) (xfp 1) = some (0xF0, 0x55, 0x202) := by
  decide +kernel
-- S3, A13
theorem test_addReg : ran 0x8124 (start [(1, 0xFA), (2, 0x0A), (15, 0x55)]) (xfp 1) = some (4, 1, 0x202) := by
  decide +kernel
theorem test_addReg_vF_last : ran 0x8F14 (start [(15, 0xC8), (1, 0x64)]) (xfp 15) = some (1, 1, 0x202) := by
  decide +kernel
-- A15, A16
theorem test_subReg_equal : ran 0x8125 (start [(1, 5), (2, 5)]) (xfp 1) = some (0, 1, 0x202) := by decide +kernel
theorem test_subReg_borrow : ran 0x8125 (start [(2, 1), (15, 0x55)]) (xfp 1) = some (0xFF, 0, 0x202) := by
  decide +kernel
-- A18, A19
theorem test_subnReg : ran 0x8127 (start [(1, 0x0A), (2, 0x14)]) (xfp 1) = some (0x0A, 1, 0x202) := by decide +kernel
theorem test_subnReg_borrow : ran 0x8127 (start [(1, 0x14), (2, 0x0A)]) (xfp 1) = some (0xF6, 0, 0x202) := by
  decide +kernel
-- A22, A24
theorem test_shr : ran 0x8126 (start [(1, 0x05), (2, 0x77)]) (xfp 1) = some (0x02, 1, 0x202) := by decide +kernel
theorem test_shr_vF : ran 0x8F26 (start [(15, 0x03)]) (xfp 15) = some (1, 1, 0x202) := by decide +kernel
-- A25, A27
theorem test_shl : ran 0x812E (start [(1, 0x81)]) (xfp 1) = some (0x02, 1, 0x202) := by decide +kernel
theorem test_shl_vF : ran 0x8F2E (start [(15, 0x80)]) (xfp 15) = some (1, 1, 0x202) := by decide +kernel
-- A28; the draw is used up (41_alu.md R142)
theorem test_rnd : ran 0xC50F { start [(15, 0x55)] with rndIn := [0xAB, 0x3C] } (fun t => (xfp 5 t, t.rndIn)) =
    some ((0x0B, 0x55, 0x202), [0x3C]) := by decide +kernel
-- A29 with no byte listed: the free value is masked away
theorem test_rnd_masked : shows (fun t => t.draws) (step (State.reset.placeWord 0xC500)) = some 1 := by decide +kernel

/-! ## Display -/

/-- The set pixels, as (column, row). -/
def lit (d : Display) : List (Nat × Nat) :=
  (List.range 32).flatMap fun y =>
    ((List.range 64).filter fun x => d[Fin.ofNat 32 y][Fin.ofNat 64 x]).map fun x => (x, y)

/-- The outputs' kinds: 0 `Clear`, 1 `Frame`, 2 a report. -/
def outKinds (t : State) : List Nat :=
  t.out.map fun o => match o with
    | .clear => 0
    | .frame _ => 1
    | .report _ _ _ => 2

-- S1, D1
theorem test_cls :
    ran 0x00E0 { start [(15, 7)] with disp := Vector.replicate 32 (Vector.replicate 64 true) }
      (fun t => (lit t.disp, outKinds t, t.reg vF)) = some ([], [0], 7) := by decide +kernel
-- D4, D6
theorem test_drw :
    ran 0xD121 (withBytes 0x300 [0xC0] { start [(1, 0x7F), (2, 0x3F), (15, 0x55)] with i := 0x300 })
      (fun t => (lit t.disp, t.reg vF, outKinds t, t.i)) = some ([(0, 31), (63, 31)], 0, [1], 0x300) ∧
    ran 0xDFF1 (withBytes 0x300 [0x80] { start [(15, 10)] with i := 0x300 }) (fun t => (lit t.disp, t.reg vF)) =
      some ([(10, 10)], 0) := by decide +kernel
-- D2, D8
theorem test_drw_range :
    ran 0xD120 { start [(15, 7)] with i := 0xFFF } (fun t => (lit t.disp, t.reg vF, outKinds t)) = some ([], 0, [1]) ∧
    ran 0xD125 { start [(15, 7)] with i := 0xFFC } (fun t => (failure t, t.reg vF, outKinds t)) =
      some ((.halted, { cause := 6, fpc := 0x200, info := 0x1000 }, 0x202, 1), 7, [2]) := by decide +kernel

/-! ## Keys and timers -/

/-- `s` with key 0xA pressed. -/
def keyA (s : State) : State := { s with key := s.key.set 10 true }

-- K1, K2
theorem test_skp : ran 0xE59E (keyA (start [(5, 0x0A)])) (fun t => t.pc) = some 0x204 := by decide +kernel
theorem test_skp_not : ran 0xE59E (start [(5, 0x0A)]) (fun t => t.pc) = some 0x202 := by decide +kernel
-- K4, K6
theorem test_sknp_not : ran 0xE5A1 (keyA (start [(5, 0x0A)])) (fun t => t.pc) = some 0x202 := by decide +kernel
theorem test_sknp_fault : ran 0xE5A1 (start [(5, 0xFF)]) failure =
    some (.halted, { cause := 8, fpc := 0x200, info := 0xFF }, 0x202, 1) := by decide +kernel
-- K7
theorem test_ldVxDt : ran 0xF307 { State.reset with dt := 0x3C } (xfp 3) = some (0x3C, 0, 0x202) := by decide +kernel
-- K8
theorem test_ldDtVx : ran 0xF215 (start [(2, 0x3C)]) (fun t => (t.dt, t.st)) = some (0x3C, 0) := by decide +kernel
-- K9
theorem test_ldStVx : ran 0xF218 (start [(2, 0x05)]) (fun t => (t.dt, t.st, t.soundOn)) = some (0, 5, true) := by
  decide +kernel
-- K14
theorem test_ldVxKey_waits :
    ran 0xF40A { State.reset with key := State.reset.key.set 7 true } (fun t => (t.dstate, t.waitX, t.pc, t.reg 4)) =
      some (.awaitingKey, 4, 0x202, 0) := by decide +kernel
-- K16
theorem test_key_resolves :
    took (.key 3 true) { State.reset with dstate := .awaitingKey, waitX := 4 } (fun t => (t.dstate, t.reg 4, t.key[3])) =
      some (.ready, 3, true) := by decide +kernel
-- K15
theorem test_held_key_does_not_resolve :
    took (.key 7 true) { State.reset with dstate := .awaitingKey, key := State.reset.key.set 7 true }
      (fun t => (t.dstate, t.reg 0)) = some (.awaitingKey, 0) := by decide +kernel
-- K11
theorem test_tick : took .tick { State.reset with st := 3 } (fun t => (t.dt, t.st)) = some (0, 2) := by decide +kernel
-- K12
theorem test_tick_frozen : took .tick { State.reset with dt := 5, dstate := .awaitingKey } (fun t => t.dt) = some 5 := by
  decide +kernel
-- K20
theorem test_key_halted : took (.key 1 true) { State.reset with dstate := .halted } (fun t => t.key[1]) = some false := by
  decide +kernel
-- R4
theorem test_quit : took .quit State.reset (fun t => (t.dstate, t.pc, t.runEnd)) =
    some (.terminated, 0x200, .clean) := by decide +kernel

/-! ## Index and memory -/

-- M1
theorem test_ldI : ran 0xA123 State.reset (fun t => t.i) = some 0x123 := by decide +kernel
-- M2, M6
theorem test_addI_no_wrap : ran 0xF51E { start [(15, 0x55)] with i := 0xFFF } (fun t => (t.i, t.reg vF)) =
    some (0xFFF, 0) := by decide +kernel
theorem test_addI_vF : ran 0xFF1E { start [(15, 2)] with i := 0xFFF } (fun t => (t.i, t.reg vF)) = some (0x001, 1) := by
  decide +kernel
-- M10
theorem test_ldFont_unmasked : ran 0xF529 (start [(5, 0xFF)]) (fun t => t.i) = some 0x4FB := by decide +kernel
-- M11
theorem test_bcd : ran 0xF533 { start [(5, 156)] with i := 0x300 } (fun t => (t.bytesAt 0x2FF 5, t.i)) =
    some ([0, 1, 5, 6, 0], 0x300) := by decide +kernel
-- M17
theorem test_bcd_font : ran 0xF533 { start [(5, 1)] with i := 0x04F } (fun t => (failure t, t.byteAt 0x50)) =
    some ((.halted, { cause := 7, fpc := 0x200, info := 0x04F }, 0x202, 1), 0) := by decide +kernel
-- M19
theorem test_store : ran 0xF255 { start [(0, 1), (1, 2), (2, 3), (3, 4)] with i := 0x400 }
    (fun t => (t.bytesAt 0x3FF 5, t.i)) = some ([0, 1, 2, 3, 0], 0x400) := by decide +kernel
-- M21
theorem test_store_out_of_range : ran 0xFF55 { start [(0, 1)] with i := 0xFF1 } (fun t => (failure t, t.byteAt 0xFF1)) =
    some ((.halted, { cause := 6, fpc := 0x200, info := 0x1000 }, 0x202, 1), 0) := by decide +kernel
-- M23
theorem test_load : ran 0xF265 (withBytes 0x400 [1, 2, 3, 4] { start [(3, 9)] with i := 0x400 })
    (fun t => (t.reg 0, t.reg 1, t.reg 2, t.reg 3, t.i)) = some (1, 2, 3, 9, 0x400) := by decide +kernel
-- M25
theorem test_load_out_of_range : ran 0xF165 { start [(0, 9), (1, 9)] with i := 0xFFF } (fun t => (failure t, t.reg 0)) =
    some ((.halted, { cause := 6, fpc := 0x200, info := 0x1000 }, 0x202, 1), 9) := by decide +kernel

/-! ## Reset -/

-- R1
theorem test_reset_event :
    took (.reset [1, 2, 3, 4]) { start [(3, 9)] with dstate := .halted, fsr := { cause := 6, fpc := 1, info := 2 } }
      (fun t => (t.bytesAt 0x1FF 6, t.reg 3, t.pc, t.dstate, t.fsr, t.out.length)) =
    some ([0, 1, 2, 3, 4, 0], 0, 0x200, .ready, { cause := 0, fpc := 0, info := 0 }, 0) := by decide +kernel
-- R2
theorem test_reset_refuses_a_long_rom (s : State) (rom : List Byte) (h : rom.length = 3585) :
    resetEvent rom s = .refused .romTooLong := by simp [resetEvent, h]
-- 10_state.md R45: `State.reset` is what the event leaves, with an empty ROM and default parameters.
theorem test_reset_state : shows id (resetEvent [] State.reset) = some State.reset := by rfl
-- A withFetchWord word is the one the next step runs.
theorem test_withFetchWord : shows (xfp 10) (step (State.reset.withFetchWord 16 0x6A05)) = some (0x05, 0, 0x202) := by
  decide +kernel

end Sys2Proof.Tests
end

