-- ==== Sys2Proof/Tests/Witnesses.lean ====
section
/-! SUPPORT. For every statement of Certificates/Slice0/Obligations.lean that has hypotheses, concrete states and operands
that meet them all together, one clause after the other, at the boundary values where clauses meet. -/

namespace Sys2Proof.Tests

-- One theorem after the other: the joined package must not ask for a thread for each.
set_option Elab.async false

open Sys2Proof.Machine Sys2Proof.Claims

/-! ## States -/

/-- Reset with `ILLEGAL_POLICY = Halt`. -/
def resetHalts : State := { State.reset with params := { defaultParams with illegalPolicy := .halts } }

/-- A state at the edges of the invariant: a full stack, the largest `I` and pc, cells at both ends of what may be
written. -/
def edge : State :=
  { State.reset with
    mem := [(0x050, 1), (0xFFF, 2)], i := 0xFFF, pc := 0x10FE, stack := List.replicate 16 0x1000 }

/-- `s` with one event listed. -/
def given (e : Event) (s : State) : State := { s with events := s.events.prepend [e] }

/-- Waiting for a key. -/
def waiting : State := { State.reset with dstate := .awaitingKey, waitX := 15 }

/-- A failed core. -/
def failed : State := { State.reset with dstate := .halted, fsr := { cause := 8, fpc := 0x200, info := 0x10 } }

/-- Terminated. -/
def ended : State := { State.reset with dstate := .terminated }

/-- The dispatcher state before and after a step. -/
def turn (s : State) : Option (DState × DState) := shows (fun t => (s.dstate, t.dstate)) (step s)

/-! ## Encoding -/

theorem witness_DecodingAnEncodedInstructionGivesItBack :
    (Instr.sys 0x0E1).wf = true ∧ (Instr.sys 0x0EF).wf = true ∧ (Instr.shl 15 15).wf = true := by decide +kernel

theorem witness_EncodingADecodedWordGivesItBack :
    decode 0x0FFF = .instr (.sys 0xFFF) ∧ decode 0x8F2E = .instr (.shl 15 2) := by decide +kernel

theorem witness_LegacyAndUnsupportedWordsAreTheListedOnes :
    decode 0x00EF = .instr (.sys 0x0EF) ∧ decode 0x5001 = .unsupported 0x5001 ∧ decode 0x800F = .unsupported 0x800F ∧
      decode 0xE09F = .unsupported 0xE09F ∧ decode 0xF066 = .unsupported 0xF066 := by decide +kernel

/-- The words of each row meet the hypotheses on the family, the low nibble and the low byte. -/
theorem witness_rows :
    Word.family 0x6A05 = 0x6 ∧ Word.family 0x7AFA = 0x7 ∧ (Word.family 0x8120 = 0x8 ∧ Word.n 0x8120 = 0x0) ∧
    Word.n 0x8121 = 0x1 ∧ Word.n 0x8122 = 0x2 ∧ Word.n 0x8123 = 0x3 ∧ Word.n 0x8124 = 0x4 ∧ Word.n 0x8125 = 0x5 ∧
    Word.n 0x8126 = 0x6 ∧ Word.n 0x8127 = 0x7 ∧ Word.n 0x812E = 0xE ∧ Word.family 0xC50F = 0xC ∧
    Word.family 0x1ABC = 0x1 ∧ Word.family 0xB300 = 0xB ∧ Word.family 0x2300 = 0x2 ∧ Word.family 0x3542 = 0x3 ∧
    Word.family 0x4542 = 0x4 ∧ (Word.family 0x5120 = 0x5 ∧ Word.n 0x5120 = 0) ∧ Word.n 0x5121 ≠ 0 ∧
    (Word.family 0x9120 = 0x9 ∧ Word.n 0x9120 = 0) ∧ Word.n 0x912F ≠ 0 ∧ Word.family 0x0123 = 0x0 ∧
    Word.family 0xD125 = 0xD ∧ (Word.family 0xE59E = 0xE ∧ Word.nn 0xE59E = 0x9E) ∧ Word.nn 0xE5A1 = 0xA1 ∧
    (Word.family 0xF307 = 0xF ∧ Word.nn 0xF307 = 0x07) ∧ Word.nn 0xF40A = 0x0A ∧ Word.nn 0xF215 = 0x15 ∧
    Word.nn 0xF218 = 0x18 ∧ Word.nn 0xF51E = 0x1E ∧ Word.nn 0xF529 = 0x29 ∧ Word.nn 0xF533 = 0x33 ∧
    Word.nn 0xF255 = 0x55 ∧ Word.nn 0xF265 = 0x65 ∧ Word.family 0xA123 = 0xA := by decide +kernel

/-! ## The invariant -/

theorem edge_inv : edge.Inv where
  memory := by decide +kernel
  font := by decide +kernel
  index := by decide +kernel
  pc := by decide +kernel
  depth := by decide +kernel
  entries := by intro w h; rw [List.eq_of_mem_replicate h]; decide
  cause := by decide +kernel
  running := fun _ => rfl
  halted := fun h => absurd h (by decide)

theorem witness_EveryStepKeepsTheInvariant :
    edge.Inv ∧ turn edge = some (.ready, .halted) := ⟨edge_inv, by decide +kernel⟩

theorem witness_NoStepChangesTheFont :
    edge.Inv ∧ (∀ x, turn (given (.key x true) edge) = some (.ready, .ready)) := ⟨edge_inv, by decide +kernel⟩

/-! ## The cycle -/

theorem witness_ReadyCycleFetchesAdvancesAndRuns :
    (let s := { State.reset with pc := 0xFFF }
     s.nextEvent = .cycle ∧ s.dstate = .ready ∧ 0x1000 ≤ s.pc.toNat + 1) ∧
    (let s := State.placeWord { State.reset with pc := 0xFFE } 0x3000
     s.nextEvent = .cycle ∧ s.dstate = .ready ∧ s.pc.toNat + 1 < 0x1000 ∧
       decode (fetched s s.pc.toNat) = .instr (.seImm 0 0)) ∧
    (let s := State.reset.placeWord 0x5121
     s.nextEvent = .cycle ∧ s.dstate = .ready ∧ s.pc.toNat + 1 < 0x1000 ∧
       decode (fetched s s.pc.toNat) = .unsupported 0x5121 ∧ s.params.illegalPolicy = .continues) ∧
    (let s := resetHalts.placeWord 0x5121
     s.nextEvent = .cycle ∧ s.dstate = .ready ∧ s.pc.toNat + 1 < 0x1000 ∧
       decode (fetched s s.pc.toNat) = .unsupported 0x5121 ∧ s.params.illegalPolicy = .halts) := by decide +kernel

theorem witness_CycleOutsideReadyDoesNothing :
    ∀ s ∈ [waiting, failed, ended], s.nextEvent = .cycle ∧ s.dstate ≠ .ready := by decide +kernel

theorem witness_IllegalWordsFollowThePolicy :
    (∀ s ∈ [State.reset.placeWord 0x0123, resetHalts.placeWord 0x0123],
      s.nextEvent = .cycle ∧ s.dstate = .ready ∧ s.pc.toNat + 1 < 0x1000 ∧ fetched s s.pc.toNat = 0x0123 ∧
        decode 0x0123 = .instr (.sys 0x123)) ∧
    (∀ s ∈ [State.reset.placeWord 0x5121, resetHalts.placeWord 0x5121],
      s.nextEvent = .cycle ∧ s.dstate = .ready ∧ s.pc.toNat + 1 < 0x1000 ∧ fetched s s.pc.toNat = 0x5121 ∧
        decode 0x5121 = .unsupported 0x5121) := by decide +kernel

/-- A failed fetch, a fault, an unsupported word and an instruction that completes. -/
theorem witness_PcAfterACycleIsTheTablesOne :
    turn (State.placeWord { State.reset with pc := 0xFFE } 0xFF0A) = some (.ready, .awaitingKey) ∧
    turn { State.reset with pc := 0xFFF } = some (.ready, .halted) ∧
    turn (State.placeWord { State.reset with pc := 0xFFE } 0x00EE) = some (.ready, .halted) ∧
    turn (State.placeWord { State.reset with pc := 0xFFE } 0x5121) = some (.ready, .ready) ∧
    turn (State.placeWord { State.reset with pc := 0xFFE } 0x3000) = some (.ready, .ready) := by decide +kernel

/-! ## Faults -/

theorem witness_FaultsArePrecise :
    turn { State.reset with pc := 0xFFF } = some (.ready, .halted) ∧
    turn (State.reset.placeWord 0x00EE) = some (.ready, .halted) := by decide +kernel

/-- Every cause, and the values next to each boundary where there is none. -/
theorem witness_CyclesFaultExactlyForTheListedCauses :
    let atI := fun (i : Word) (w : Word) => cycleFault (State.placeWord { State.reset with i := i } w)
    cycleFault { State.reset with pc := 0xFFF } = some (1, 0xFFF) ∧
    cycleFault (State.placeWord { State.reset with stack := List.replicate 16 0 } 0x2300) = some (2, 0x300) ∧
    cycleFault (State.placeWord { State.reset with stack := List.replicate 15 0 } 0x2300) = none ∧
    cycleFault (State.reset.placeWord 0x00EE) = some (3, 0) ∧
    cycleFault (State.placeWord { State.reset with stack := [0] } 0x00EE) = none ∧
    cycleFault (resetHalts.placeWord 0x5121) = some (4, 0x5121) ∧
    cycleFault (State.reset.placeWord 0x5121) = none ∧
    cycleFault (resetHalts.placeWord 0x0123) = some (5, 0x0123) ∧ cycleFault (State.reset.placeWord 0x0123) = none ∧
    atI 0xFFC 0xD125 = some (6, 0x1000) ∧ atI 0xFFB 0xD125 = none ∧ atI 0xFFF 0xD120 = none ∧
    atI 0xFFE 0xF533 = some (6, 0x1000) ∧ atI 0xFFD 0xF533 = none ∧
    atI 0x04F 0xF533 = some (7, 0x04F) ∧ atI 0x050 0xF533 = none ∧
    atI 0xFF1 0xFF55 = some (6, 0x1000) ∧ atI 0xFF0 0xFF55 = none ∧
    atI 0x04F 0xF055 = some (7, 0x04F) ∧ atI 0x050 0xF055 = none ∧
    atI 0xFFF 0xF165 = some (6, 0x1000) ∧ atI 0xFFE 0xF165 = none ∧ atI 0 0xF065 = none ∧
    cycleFault ((start [(5, 0x10)]).placeWord 0xE59E) = some (8, 0x10) ∧
    cycleFault ((start [(5, 0x0F)]).placeWord 0xE5A1) = none := by decide +kernel

theorem witness_HaltedIsLeftOnlyByQuitAndReset :
    failed.dstate = .halted ∧ failed.nextEvent = .cycle ∧ (given .tick failed).nextEvent = .tick ∧
    (given (.key 0 true) failed).nextEvent = .key 0 true ∧ (given .quit failed).nextEvent = .quit ∧
    (given (.reset []) failed).nextEvent = .reset [] := by decide +kernel

theorem witness_FsrIsWrittenByFaultsAndClearedByReset :
    shows (fun t => t.fsr.cause) (step (State.reset.placeWord 0x00EE)) = some 3 ∧ State.reset.fsr.cause = 0 ∧
    shows (fun t => t.fsr.cause) (step (given (.reset []) failed)) = some 0 ∧ failed.fsr.cause = 8 := by decide +kernel

theorem witness_DispatcherTransitionsAreTheListedOnes :
    turn (State.reset.placeWord 0xFF0A) = some (.ready, .awaitingKey) ∧
    turn (given (.key 15 true) waiting) = some (.awaitingKey, .ready) ∧
    turn (State.reset.placeWord 0x00EE) = some (.ready, .halted) ∧
    turn (given .quit failed) = some (.halted, .terminated) ∧
    turn (given (.reset []) ended) = some (.terminated, .ready) ∧
    (let s := State.placeWord { State.reset with pc := 0xFFE } 0xFF0A
     s.nextEvent = .cycle ∧ s.dstate = .ready ∧ s.pc.toNat + 1 < 0x1000 ∧
       decode (fetched s s.pc.toNat) = .instr (.ldVxKey 15)) ∧
    cycleFault (State.reset.placeWord 0x00EE) ≠ none := by decide +kernel

/-! ## Events -/

theorem witness_TickCountsDownInReadyOnly :
    (let s := given .tick { State.reset with dt := 1 }
     s.nextEvent = .tick ∧ s.dstate = .ready ∧ 0 < s.dt.toNat ∧ s.st = 0) ∧
    (let s := given .tick { State.reset with st := 1 }
     s.nextEvent = .tick ∧ s.dstate = .ready ∧ 0 < s.st.toNat ∧ s.dt = 0) ∧
    (∀ s ∈ [waiting, failed, ended], (given .tick s).nextEvent = .tick ∧ (given .tick s).dstate ≠ .ready) := by decide +kernel

theorem witness_TicksLowerEachTimerToAFloorOfZero :
    let s := { State.reset with dt := 5, st := 255, events := State.reset.events.prepend (List.replicate 7 .tick) }
    s.dstate = .ready ∧ s.events = State.reset.events.prepend (List.replicate 7 .tick) := by decide +kernel

theorem witness_KeyEventsSetKeysAndResolveTheWait :
    (∀ s ∈ [given (.key 15 true) State.reset, given (.key 15 false) waiting],
      s.dstate = .ready ∨ s.dstate = .awaitingKey ∧ ¬ (s.nextEvent = .key 15 true ∧ s.key[15] = false)) ∧
    (let s := given (.key 15 true) waiting
     s.nextEvent = .key 15 true ∧ s.dstate = .awaitingKey ∧ s.key[15] = false) ∧
    (∀ s ∈ [failed, ended], s.dstate = .halted ∨ s.dstate = .terminated) := by decide +kernel

theorem witness_QuitTerminatesFromEveryState :
    (∀ s ∈ [State.reset, waiting, failed, ended], (given .quit s).nextEvent = .quit) ∧
    ended.dstate = .terminated ∧ (∀ e ∈ [Event.cycle, .tick, .key 15 true, .quit],
      (given e ended).nextEvent = e) := by decide +kernel

theorem witness_ResetEventInitialisesEverything (n : Nat) :
    ∃ rom : List Byte, rom.length = n ∧ (given (.reset rom) failed).nextEvent = .reset rom ∧
      (n = 3584 → rom.length ≤ 3584 ∧ 3583 < rom.length) ∧ (n = 3585 → 3584 < rom.length) :=
  ⟨List.replicate n 1, by simp, rfl, by simp; omega, by simp; omega⟩

theorem witness_OutputsComeOnlyFromTheirInstructions :
    ran 0x00E0 State.reset outKinds = some [0] ∧ ran 0xD015 State.reset outKinds = some [1] ∧
    ran 0x5121 State.reset outKinds = some [2] ∧ ran 0x00EE State.reset outKinds = some [2] ∧
    ran 0x6A05 State.reset outKinds = some [] := by decide +kernel

/-- Two sequences that agree in their next event only, one of them free after it. -/
theorem witness_StepsTakeOneEventAndSeeNoLaterOne :
    let q : EventStream := { listed := [.tick], after := .free 0 }
    q.next = (given .tick State.reset).events.next ∧ turn (given .tick State.reset) = some (.ready, .ready) ∧
    (∀ rom : List Byte, rom.length = 3585 → step (given (.reset rom) State.reset) = .refused .romTooLong) :=
  ⟨rfl, by decide +kernel, fun rom h => test_reset_refuses_a_long_rom _ rom h⟩

theorem witness_EveryOrderOfEventsIsAdmitted :
    1 < [Event.tick, .cycle].length ∧ ∃ t : State, Host.Core.run Sys2Proof.core 0 State.reset = .next t := ⟨by decide, _, rfl⟩

/-- A self-jump at 0x200 and the sequence `cycle`, `tick`, `cycle`, `tick`, … without end; after `k` steps. -/
def looping (k : Nat) : State :=
  { State.placeWord State.reset 0x1200 with
    dt := BitVec.ofNat 8 (3 - k / 2), st := BitVec.ofNat 8 (2 - k / 2)
    events := { listed := [], after := if k % 2 = 0 then .repeating .cycle [.tick] else .repeating .tick [.cycle] } }

theorem looping_step (k : Nat) : step (looping k) = .next (looping (k + 1)) := by
  have hd : ∀ (a b : Nat) (p : Bool), a ≤ 3 → b ≤ 2 →
      step { State.placeWord State.reset 0x1200 with
        dt := BitVec.ofNat 8 a, st := BitVec.ofNat 8 b
        events := { listed := [], after := if p then .repeating .cycle [.tick] else .repeating .tick [.cycle] } } =
      .next { State.placeWord State.reset 0x1200 with
        dt := BitVec.ofNat 8 (if p then a else a - 1), st := BitVec.ofNat 8 (if p then b else b - 1)
        events := { listed := [], after := if p then .repeating .tick [.cycle] else .repeating .cycle [.tick] } } := by
    intro a b p ha hb
    interval_cases a <;> interval_cases b <;> cases p <;> rfl
  rcases Nat.mod_two_eq_zero_or_one k with h | h
  · have := hd (3 - k / 2) (2 - k / 2) true (by omega) (by omega)
    simp only [looping, h, show (k + 1) % 2 = 1 by omega, show (k + 1) / 2 = k / 2 by omega]
    simpa using this
  · have := hd (3 - k / 2) (2 - k / 2) false (by omega) (by omega)
    simp only [looping, h, show (k + 1) % 2 = 0 by omega, show (k + 1) / 2 = k / 2 + 1 by omega, ← Nat.sub_sub]
    simpa using this

theorem looping_run (k n : Nat) : Host.Core.run Sys2Proof.core k (looping n) = .next (looping (n + k)) := by
  induction k generalizing n with
  | zero => rfl
  | succ k ih => exact (run_succ (looping_step n) k).trans ((ih (n + 1)).trans (by rw [Nat.add_right_comm]; rfl))

theorem looping_drop (k n : Nat) : (looping n).events.drop k = (looping (n + k)).events := by
  induction k generalizing n with
  | zero => rfl
  | succ k ih =>
    rw [EventStream.drop_succ, show (looping n).events.rest = (looping (n + 1)).events from ?_, ih,
      Nat.add_right_comm, Nat.add_assoc n k 1]
    rcases Nat.mod_two_eq_zero_or_one n with h | h
    · simp only [looping, h, show (n + 1) % 2 = 1 by omega]; rfl
    · simp only [looping, h, show (n + 1) % 2 = 0 by omega]; rfl

/-- An endless run fair to `cycle` and to `tick`. -/
theorem witness_TimersReachZeroWhenTicksNeverEnd :
    (∀ k, Host.Core.run Sys2Proof.core k (looping 0) = .next (looping k)) ∧ (∀ k, (looping k).dstate = .ready) ∧
    RecursIn (looping 0).events .tick ∧ RecursIn (looping 0).events .cycle ∧
    (∀ k, ((looping 0).events.drop k).next ≠ .tick → (looping (k + 1)).dt = (looping k).dt ∧
      (looping (k + 1)).st = (looping k).st) := by
  refine ⟨fun k => by simpa using looping_run k 0, fun k => rfl, fun n => ⟨2 * n + 1, by omega, ?_⟩,
    fun n => ⟨2 * n, by omega, ?_⟩, fun k h => ?_⟩
  · rw [looping_drop]; simp only [looping, show (0 + (2 * n + 1)) % 2 = 1 by omega]; rfl
  · rw [looping_drop]; simp only [looping, show (0 + 2 * n) % 2 = 0 by omega]; rfl
  · rw [looping_drop, Nat.zero_add] at h
    rcases Nat.mod_two_eq_zero_or_one k with hk | hk
    · simp only [looping, show (k + 1) / 2 = k / 2 by omega, and_self]
    · exact absurd (by simp only [looping, hk]; rfl) h

/-! ## Frames -/

theorem witness_InstructionsWriteOnlyTheirRegisters :
    ¬ mayWrite (.addReg 1 2) 2 ∧ ¬ mayWrite (.load 14) vF ∧ ¬ mayWrite (.ldVxKey 4) 4 ∧
    shows (fun _ => ()) (exec (.addReg 1 2) State.reset) = some () ∧
    shows (fun _ => ()) (exec (.load 14) State.reset) = some () := by
  refine ⟨by simp [mayWrite, vF], by simp [mayWrite, vF], id, by decide +kernel, by decide +kernel⟩

theorem witness_InstructionsStoreOnlyAtTheirAddresses :
    let s := { State.reset with i := 0x300 }
    ¬ mayStore (.bcd 5) s 0x2FF ∧ ¬ mayStore (.bcd 5) s 0x303 ∧ ¬ mayStore (.store 2) s 0x303 ∧
    ¬ mayStore (.load 2) s 0x300 ∧ shows (fun _ => ()) (exec (.bcd 5) s) = some () ∧
    (shows (fun t => t.dstate) (exec (.store 2) State.reset) = some .halted ∧ State.reset.dstate ≠ .halted) := by
  refine ⟨by simp [mayStore], by simp [mayStore], by simp [mayStore], id, by decide +kernel, by decide +kernel, by decide⟩

theorem witness_InstructionsLeaveTheOtherStateAlone :
    let i := Instr.ldReg 1 2
    shows (fun t => t.dstate) (exec i State.reset) = some .ready ∧ (∀ a, i ≠ .ldI a) ∧ (∀ x, i ≠ .addI x) ∧
    (∀ x, i ≠ .ldFont x) ∧ (∀ a, i ≠ .call a) ∧ i ≠ .ret ∧ (∀ x, i ≠ .ldDtVx x) ∧ (∀ x, i ≠ .ldStVx x) ∧ i ≠ .cls ∧
    (∀ x y n, i ≠ .drw x y n) ∧ (∀ x, i ≠ .ldVxKey x) ∧ (∀ x nn, i ≠ .rnd x nn) := by
  refine ⟨by decide +kernel, ?_⟩
  simp

theorem witness_OnlyTheRandomInstructionReadsTheRandomInput :
    (∀ x nn, Instr.ldReg 1 2 ≠ .rnd x nn) ∧ shows (fun _ => ()) (exec (.ldReg 1 2) State.reset) = some () :=
  ⟨by simp, by decide +kernel⟩

theorem witness_NoStepReadsTheNominalRates (s : State) (rom : List Byte) (h : rom.length = 3585) :
    turn State.reset = some (.ready, .ready) ∧ step (given (.reset rom) s) = .refused .romTooLong :=
  ⟨by decide +kernel, test_reset_refuses_a_long_rom _ rom h⟩

/-! ## Instruction statements with hypotheses -/

theorem witness_RandomByteIsTheMaskedDraw :
    ({ State.reset with rndIn := [0xAB] } : State).rndIn = 0xAB :: [] ∧ State.reset.rndIn = [] := ⟨rfl, rfl⟩

theorem witness_CallPushesTheReturnAddressOrOverflows :
    ({ State.reset with stack := List.replicate 15 0 } : State).stack.length < 16 ∧ 16 ≤ edge.stack.length := by decide +kernel

theorem witness_ReturnPopsTheLastEntryOrUnderflows :
    edge.stack = List.replicate 15 0x1000 ++ [0x1000] ∧ State.reset.stack = [] := by decide +kernel

theorem witness_ReturnUndoesCall :
    let s := { State.reset with stack := List.replicate 15 0x444 }
    s.stack.length < 16 ∧ ∃ t, exec (.call 0x300) s = .next t ∧ t.stack = t.stack := ⟨by decide, _, rfl, rfl⟩

theorem witness_LegacyCallIsReportedOrFaults :
    State.reset.params.illegalPolicy = .continues ∧ resetHalts.params.illegalPolicy = .halts ∧
    Word.family 0x0FFF = 0x0 ∧ (0x0FFF : Word) ≠ 0x00E0 ∧ (0x0FFF : Word) ≠ 0x00EE := by decide +kernel

/-- Glyph 0 under the default font covers (0, 0); a set pixel there collides, a clear display does not. -/
theorem witness_DrawXorsTheSpriteAndFlagsCollision :
    (0 : Nibble) = 0 ∧ (0xFFB : Word).toNat + (5 : Nibble).toNat ≤ 0x1000 ∧
    ((5 : Nibble) ≠ 0 ∧ 0x1000 < (0xFFC : Word).toNat + (5 : Nibble).toNat) ∧
    (let s := { State.reset with disp := Vector.replicate 32 (Vector.replicate 64 true) }
     ∃ (py : Fin 32) (px : Fin 64), Covered s 0 0 5 py px ∧ s.disp[py][px] = true) ∧
    (¬ ∃ (py : Fin 32) (px : Fin 64), Covered State.reset 0 0 5 py px ∧ State.reset.disp[py][px] = true) := by
  refine ⟨by decide, by decide, by decide, ⟨0, 0, ⟨0, 0, by decide +kernel⟩, by decide +kernel⟩, ?_⟩
  rintro ⟨py, px, -, h⟩
  simp [State.reset] at h

theorem witness_SpriteUnitXorsPixelsUnderOneBits :
    (List.replicate 15 (0xFF : Byte)).length ≤ 15 ∧ Under 0xFF 0xFF [0xFF] 31 63 := by
  exact ⟨by decide, 0, 0, by decide, by decide⟩

theorem witness_DrawingASpriteTwiceRestoresTheDisplay : (List.replicate 15 (0xFF : Byte)).length ≤ 15 := by decide +kernel

theorem witness_KeySkipsTestTheKeyOrFault :
    ((start [(5, 0x0F)]).reg 5).toNat = (15 : RegIdx).val ∧ 0x0F < ((start [(5, 0x10)]).reg 5).toNat := by decide +kernel

theorem witness_KeyWaitIsEnteredAndResolved :
    waiting.dstate = .awaitingKey ∧ waiting.nextEvent = .cycle ∧ (given .tick waiting).nextEvent = .tick ∧
    ((given (.key 15 true) waiting).nextEvent = .key 15 true ∧ waiting.key[15] = false) ∧
    (given (.key 15 false) waiting).nextEvent = .key 15 false ∧ (given .quit waiting).nextEvent = .quit ∧
    ((given (.reset []) waiting).nextEvent = .reset [] ∧ ([] : List Byte).length ≤ 3584) := by decide +kernel

theorem witness_KeyWaitOutlastsCyclesTicksAndReleases :
    let es : List Event := [.cycle, .tick, .key 15 false]
    let s := { waiting with events := State.reset.events.prepend es }
    s.dstate = .awaitingKey ∧ s.events = State.reset.events.prepend es ∧
    ∀ e ∈ es, e = .cycle ∨ e = .tick ∨ ∃ k, e = .key k false := by
  refine ⟨rfl, rfl, ?_⟩
  simp

theorem witness_IndexAddWrapsAtTwelveBits :
    let sum := fun (i : Word) (b : Byte) => i.toNat + ((start [(5, b)]).reg 5).toNat
    sum 0xFFF 0 ≤ 0x0FFF ∧ 0x0FFF < sum 0xFFF 1 := by decide +kernel

theorem witness_BcdStoresThreeDigitsOrFaults :
    Memory.wf (initByte edge.params) edge.mem ∧
    (0x050 ≤ (0x050 : Word).toNat ∧ (0xFFD : Word).toNat + 2 < 0x1000) ∧ 0x1000 ≤ (0xFFE : Word).toNat + 2 ∧
    (0x04F : Word).toNat < 0x050 := by decide +kernel

theorem witness_StoreWritesTheRegistersOrFaults :
    Memory.wf (initByte edge.params) edge.mem ∧
    (0x050 ≤ (0xFF0 : Word).toNat ∧ (0xFF0 : Word).toNat + (15 : RegIdx).val < 0x1000) ∧
    (0x050 ≤ (0xFF1 : Word).toNat ∧ 0x1000 ≤ (0xFF1 : Word).toNat + (15 : RegIdx).val) ∧
    (0x04F : Word).toNat < 0x050 := by decide +kernel

theorem witness_LoadReadsTheRegistersOrFaults :
    (0xFF0 : Word).toNat + (15 : RegIdx).val < 0x1000 ∧ 0x1000 ≤ (0xFFF : Word).toNat + (1 : RegIdx).val := by decide +kernel

theorem witness_LoadAfterStoreRestoresTheRegisters :
    let s := { State.reset with i := 0xFF0 }
    Memory.wf (initByte s.params) s.mem ∧ 0x050 ≤ s.i.toNat ∧ s.i.toNat + (15 : RegIdx).val < 0x1000 ∧
    ∃ t, exec (.store 15) s = .next t ∧ t.mem = t.mem := ⟨by decide, by decide, by decide, _, rfl, rfl⟩

theorem witness_StoredWordIsFetchedByTheNextCycle :
    let s := { start [(0, 0x6A), (1, 0x05)] with i := 0xFFE }
    Memory.wf (initByte s.params) s.mem ∧ 0x050 ≤ s.i.toNat ∧ 1 ≤ (1 : RegIdx).val ∧
    s.i.toNat + (1 : RegIdx).val < 0x1000 ∧ s.dstate = .ready ∧
    shows (fun t => t.nextEvent) (exec (.store 1) s) = some .cycle ∧
    decode ((s.reg 0).setWidth 16 <<< 8 ||| (s.reg 1).setWidth 16) = .instr (.ldImm 10 0x05) := by
  refine ⟨by decide, by decide, by decide, by decide, by decide, by decide +kernel, by decide +kernel⟩

end Sys2Proof.Tests
end

section
/-! PROOFS. No step reads the nominal rates (spec 00_scope.md R6): giving a state other rates commutes with every
operation, hence with every instruction, every event and the step. -/

namespace Sys2Proof.Machine

/-! ## Other rates, and an answer with its next state replaced -/

/-- The state with the nominal rates `cHz` and `tHz` in place of its own. -/
def State.withRates (cHz tHz : Nat) (s : State) : State :=
  { s with params := { s.params with cycleHz := cHz, tickHz := tHz } }

/-- The answer with `f` applied to its next state, if it has one. -/
def mapNext (f : State → State) : Result → Result
  | .next t => .next (f t)
  | .fault r => .fault r
  | .refused r => .refused r

@[simp] theorem mapNext_next (f : State → State) (t : State) : mapNext f (.next t) = .next (f t) := rfl

section
variable (cHz tHz : Nat) (s : State)

@[simp] theorem State.withRates_pc : (s.withRates cHz tHz).pc = s.pc := rfl
@[simp] theorem State.withRates_stack : (s.withRates cHz tHz).stack = s.stack := rfl
@[simp] theorem State.withRates_key : (s.withRates cHz tHz).key = s.key := rfl
@[simp] theorem State.withRates_dstate : (s.withRates cHz tHz).dstate = s.dstate := rfl

/-! ## The operations that branch or recur -/

theorem State.byteAt_withRates (a : Nat) : (s.withRates cHz tHz).byteAt a = s.byteAt a := rfl

theorem State.bytesAt_withRates (a n : Nat) : (s.withRates cHz tHz).bytesAt a n = s.bytesAt a n := by
  induction n generalizing a with
  | zero => rfl
  | succ n ih => simp only [State.bytesAt, State.byteAt_withRates, ih]

theorem State.setBytes_withRates (a : Nat) (xs : List Byte) :
    (s.withRates cHz tHz).setBytes a xs = (s.setBytes a xs).withRates cHz tHz := by
  induction xs generalizing s a with
  | nil => rfl
  | cons x xs ih => exact ih (s.setByte a x) (a + 1)

theorem State.setReg_withRates (x : RegIdx) (b : Byte) :
    (s.withRates cHz tHz).setReg x b = (s.setReg x b).withRates cHz tHz := rfl

theorem State.loadRegs_withRates (a n : Nat) :
    (s.withRates cHz tHz).loadRegs a n = (s.loadRegs a n).withRates cHz tHz := by
  induction n with
  | zero => rfl
  | succ n ih => simp only [State.loadRegs, ih, State.byteAt_withRates, State.setReg_withRates]

theorem State.skipIf_withRates (b : Bool) :
    (s.withRates cHz tHz).skipIf b = (s.skipIf b).withRates cHz tHz := by
  cases b <;> rfl

theorem State.rndByte_withRates : (s.withRates cHz tHz).rndByte = s.rndByte := rfl

theorem State.takeDraw_withRates : (s.withRates cHz tHz).takeDraw = s.takeDraw.withRates cHz tHz := by
  unfold State.takeDraw
  cases hq : s.rndIn <;> simp [State.withRates, hq]

/-- The policy is a parameter too, but not one of the two rates. -/
theorem State.illegal_withRates (cause : Cause) (op : Word) :
    (s.withRates cHz tHz).illegal cause op = (s.illegal cause op).withRates cHz tHz := by
  obtain ⟨hp, h⟩ | ⟨hp, h⟩ := s.illegal_cases cause op
  · rw [h, State.illegal_continues (s := s.withRates cHz tHz) hp]; rfl
  · rw [h, State.illegal_halts (s := s.withRates cHz tHz) hp]; rfl

theorem State.draw_withRates (x y : RegIdx) (n : Nibble) :
    (s.withRates cHz tHz).draw x y n = (s.draw x y n).withRates cHz tHz := by
  unfold State.draw
  rw [State.bytesAt_withRates]
  rfl

/-- A range check reads no parameter, so a checked access commutes where its effect does. -/
theorem State.withRange_withRates (acc : Access) (a n : Nat) (f : State → State)
    (hf : f (s.withRates cHz tHz) = (f s).withRates cHz tHz) :
    (s.withRates cHz tHz).withRange acc a n f = mapNext (State.withRates cHz tHz) (s.withRange acc a n f) := by
  unfold State.withRange
  cases rangeFault acc a n with
  | none => exact congrArg _ hf
  | some e => rfl

/-- A key check reads no parameter either. -/
theorem State.withKey_withRates (b : Byte) (f : RegIdx → State → State)
    (hf : ∀ k, f k (s.withRates cHz tHz) = (f k s).withRates cHz tHz) :
    (s.withRates cHz tHz).withKey b f = mapNext (State.withRates cHz tHz) (s.withKey b f) := by
  unfold State.withKey
  cases keyIndex b with
  | none => rfl
  | some k => exact congrArg _ (hf k)

/-! ## Instructions, events and the step -/

/-- The arms not listed update named fields to values read from fields other than the parameters. -/
theorem exec_withRates (i : Instr) :
    exec i (s.withRates cHz tHz) = mapNext (State.withRates cHz tHz) (exec i s) := by
  cases i with
  | sys nnn => exact congrArg _ (s.illegal_withRates cHz tHz _ _)
  | ret =>
    simp only [exec, execRet, State.withRates_stack]
    cases s.stack.getLast? <;> rfl
  | call nnn =>
    simp only [exec, execCall]
    rw [State.withRates_stack]
    split <;> rfl
  | seImm _ _ | sneImm _ _ | seReg _ _ | sneReg _ _ => exact congrArg _ (s.skipIf_withRates cHz tHz _)
  | skp x =>
    refine s.withKey_withRates cHz tHz _ (fun k s => s.skipIf s.key[k]) ?_
    exact fun k => s.skipIf_withRates cHz tHz s.key[k]
  | sknp x =>
    refine s.withKey_withRates cHz tHz _ (fun k s => s.skipIf (!s.key[k])) ?_
    exact fun k => s.skipIf_withRates cHz tHz (!s.key[k])
  | rnd x nn =>
    simp only [exec, execRnd, State.takeDraw_withRates, State.rndByte_withRates, State.setReg_withRates, mapNext_next]
  | drw x y n =>
    refine s.withRange_withRates cHz tHz _ _ _ (fun s => s.draw x y n) ?_
    exact s.draw_withRates cHz tHz x y n
  | bcd x =>
    refine s.withRange_withRates cHz tHz _ _ _ (fun s => s.setBytes s.base (bcdDigits (s.reg x))) ?_
    exact s.setBytes_withRates cHz tHz s.base _
  | store x =>
    refine s.withRange_withRates cHz tHz _ _ _ (fun s => s.setBytes s.base (s.regsTo x)) ?_
    exact s.setBytes_withRates cHz tHz s.base _
  | load x =>
    refine s.withRange_withRates cHz tHz _ _ _ (fun s => s.loadRegs s.base (x.val + 1)) ?_
    exact s.loadRegs_withRates cHz tHz s.base _
  | _ => rfl

theorem execDecoded_withRates (d : Decoded) :
    execDecoded d (s.withRates cHz tHz) = mapNext (State.withRates cHz tHz) (execDecoded d s) := by
  cases d with
  | instr i => exact exec_withRates cHz tHz s i
  | unsupported op => exact congrArg _ (s.illegal_withRates cHz tHz _ op)

theorem readyCycle_withRates :
    readyCycle (s.withRates cHz tHz) = mapNext (State.withRates cHz tHz) (readyCycle s) := by
  unfold readyCycle
  rw [State.withRates_pc]
  split
  · rfl
  · exact execDecoded_withRates cHz tHz s.advance _

theorem cycle_withRates : cycle (s.withRates cHz tHz) = mapNext (State.withRates cHz tHz) (cycle s) := by
  by_cases hr : s.dstate = .ready
  · rw [cycle_ready hr, cycle_ready (s := s.withRates cHz tHz) hr, readyCycle_withRates]
  · rw [cycle_idle hr, cycle_idle (s := s.withRates cHz tHz) hr, mapNext_next]

theorem tick_withRates : tick (s.withRates cHz tHz) = (tick s).withRates cHz tHz := by
  by_cases hr : s.dstate = .ready
  · rw [tick_ready hr, tick_ready (s := s.withRates cHz tHz) hr]; rfl
  · rw [tick_idle hr, tick_idle (s := s.withRates cHz tHz) hr]

theorem keyEvent_withRates (k : RegIdx) (p : Bool) :
    keyEvent k p (s.withRates cHz tHz) = (keyEvent k p s).withRates cHz tHz := by
  unfold keyEvent
  rw [State.withRates_dstate, State.withRates_key]
  cases s.dstate with
  | awaitingKey => dsimp only; split <;> rfl
  | _ => rfl

/-- Reset keeps the parameters, rates included (log entry 7), and reads of them only the reset contents of memory. -/
theorem resetEvent_withRates (rom : List Byte) :
    resetEvent rom (s.withRates cHz tHz) = mapNext (State.withRates cHz tHz) (resetEvent rom s) := by
  unfold resetEvent
  split
  · exact congrArg _ (s.cleared.setBytes_withRates cHz tHz _ rom)
  · rfl

theorem applyEvent_withRates (e : Event) :
    applyEvent e (s.withRates cHz tHz) = mapNext (State.withRates cHz tHz) (applyEvent e s) := by
  cases e with
  | reset rom => exact resetEvent_withRates cHz tHz s rom
  | cycle => exact cycle_withRates cHz tHz s
  | tick => exact congrArg _ (tick_withRates cHz tHz s)
  | key k p => exact congrArg _ (keyEvent_withRates cHz tHz s k p)
  | quit => rfl

/-- Which event a step takes does not depend on the rates, so the step commutes as its event does. -/
theorem step_withRates : step (s.withRates cHz tHz) = mapNext (State.withRates cHz tHz) (step s) :=
  applyEvent_withRates cHz tHz s.takeEvent s.nextEvent

end

/-- Settles O28: a step from the state with other rates answers what it answered, those rates in its next state. -/
theorem noStepReadsTheNominalRates : Obligations.NoStepReadsTheNominalRates := by
  intro s cHz tHz
  have hstep := step_withRates cHz tHz s
  constructor
  · intro t ht
    rw [ht] at hstep
    exact hstep
  · intro r hr
    rw [hr] at hstep
    exact hstep

end Sys2Proof.Machine
end

section
/-! PROOFS. What an instruction and a cycle can do, said once: the fault that the claims' `faultOf` and `cycleFault`
name, or else the instruction's effect (spec 30_encoding.md R90, 60_exceptions.md R221, R223, R229). -/

namespace Sys2Proof.Machine

open Sys2Proof.Claims

/-! ## The effect of an instruction, and an effect unless there is a fault -/

/-- The state an instruction leaves when no check of its own fails; for the legacy call, the one under `Continue`. The
key skips ask for the key list's entry, which a failing check's index does not have. -/
def effect (i : Instr) (s : State) : State :=
  match i with
  | .cls => (s.setDisp clearDisplay).emit .clear
  | .ret => s.dropTop.setPc (s.stack.getLast?.getD 0)
  | .sys nnn => s.report .legacyCall (encode (.sys nnn))
  | .jp nnn => s.setPc (zextAddr nnn)
  | .call nnn => (s.push s.pc).setPc (zextAddr nnn)
  | .seImm x nn => s.skipIf (s.reg x == nn)
  | .sneImm x nn => s.skipIf (s.reg x != nn)
  | .seReg x y => s.skipIf (s.reg x == s.reg y)
  | .ldImm x nn => s.setReg x nn
  | .addImm x nn => s.setReg x (addByte (s.reg x) nn)
  | .ldReg x y => s.setReg x (s.reg y)
  | .orReg x y => s.setReg x (s.reg x ||| s.reg y)
  | .andReg x y => s.setReg x (s.reg x &&& s.reg y)
  | .xorReg x y => s.setReg x (s.reg x ^^^ s.reg y)
  | .addReg x y => s.setRegFlag x (addByte (s.reg x) (s.reg y)) (carry (s.reg x) (s.reg y))
  | .subReg x y => s.setRegFlag x (subByte (s.reg x) (s.reg y)) (noBorrow (s.reg x) (s.reg y))
  | .shr x _ => s.setRegFlag x (shrByte (s.reg x)) (shrOut (s.reg x))
  | .subnReg x y => s.setRegFlag x (subByte (s.reg y) (s.reg x)) (noBorrow (s.reg y) (s.reg x))
  | .shl x _ => s.setRegFlag x (shlByte (s.reg x)) (shlOut (s.reg x))
  | .sneReg x y => s.skipIf (s.reg x != s.reg y)
  | .ldI nnn => s.setI (zextAddr nnn)
  | .jpV0 nnn => s.setPc (offsetTarget nnn (s.reg 0))
  | .rnd x nn => s.takeDraw.setReg x (s.rndByte &&& nn)
  | .drw x y n => s.draw x y n
  | .skp x => s.skipIf (s.key[(s.reg x).toNat]? == some true)
  | .sknp x => s.skipIf (s.key[(s.reg x).toNat]? == some false)
  | .ldVxDt x => s.setReg x s.dt
  | .ldVxKey x => s.await x
  | .ldDtVx x => s.setDt (s.reg x)
  | .ldStVx x => s.setSt (s.reg x)
  | .addI x => (s.setI (indexAdd s.i (s.reg x))).setFlag (indexOverflow s.i (s.reg x))
  | .ldFont x => s.setI (glyphAddr (s.reg x))
  | .bcd x => s.setBytes s.base (bcdDigits (s.reg x))
  | .store x => s.setBytes s.base (s.regsTo x)
  | .load x => s.loadRegs s.base (x.val + 1)

/-- The state `t`, unless there is a fault `e`, a cause code and an `info`: then what that fault leaves of the state `s`
at handler entry (60_exceptions.md R223). -/
def State.unlessFault (s : State) (e : Option (BitVec 4 × Nat)) (t : State) : State :=
  match e with
  | some (c, info) => s.faulted (s.pc - 2) c (BitVec.ofNat 16 info)
  | none => t

section
variable (s t : State)

@[simp] theorem State.unlessFault_none : s.unlessFault none t = t := rfl

@[simp] theorem State.unlessFault_some (c : BitVec 4) (info : Nat) :
    s.unlessFault (some (c, info)) t = s.faulted (s.pc - 2) c (BitVec.ofNat 16 info) := rfl

/-! ## The checks as faults -/

/-- A checked read faults at the lowest address outside the address space (20_memory.md R66). -/
theorem State.withRange_read (a n : Nat) (f : State → State) :
    s.withRange .read a n f =
      .next (s.unlessFault (if 0 < n ∧ 0x1000 < a + n then some (6, max a 0x1000) else none) (f s)) := by
  by_cases h : 0 < n ∧ 0x1000 < a + n
  · rw [if_pos h]
    exact s.withRange_fault f (rangeFault_outside (acc := .read) h.2 nofun h.1)
  · rw [if_neg h]
    exact s.withRange_ok f (by simp; omega)

/-- A checked write faults in the font first, then outside the address space (20_memory.md R66). -/
theorem State.withRange_write (a : Nat) {n : Nat} (hn : 0 < n) (f : State → State) :
    s.withRange .write a n f =
      .next (s.unlessFault
        (if a < 0x050 then some (7, a) else if 0x1000 < a + n then some (6, max a 0x1000) else none) (f s)) := by
  by_cases hf : a < 0x050
  · rw [if_pos hf]
    exact s.withRange_fault f (rangeFault_font hf hn)
  · rw [if_neg hf]
    by_cases h : 0x1000 < a + n
    · rw [if_pos h]
      exact s.withRange_fault f (rangeFault_outside h (fun _ => by simpa using hf) hn)
    · rw [if_neg h]
      exact s.withRange_ok f (by simp; omega)

theorem zextAddr_eq_ofNat (nnn : Addr) : zextAddr nnn = BitVec.ofNat 16 nnn.toNat :=
  (BitVec.ofNat_toNat 16 nnn).symm

theorem zextByte_eq_ofNat (b : Byte) : zextByte b = BitVec.ofNat 16 b.toNat :=
  (BitVec.ofNat_toNat 16 b).symm

theorem offsetTarget_eq_ofNat (nnn : Addr) (b : Byte) :
    offsetTarget nnn b = BitVec.ofNat 16 (nnn.toNat + b.toNat) := by
  rw [offsetTarget, zextAddr_eq_ofNat, zextByte_eq_ofNat, BitVec.ofNat_add]

/-- A legacy call's word is its operand (30_encoding.md R86). -/
theorem encode_sys (nnn : Addr) : encode (.sys nnn) = BitVec.ofNat 16 nnn.toNat := by
  simp [encode, formatA, place]

/-- A key skip whose condition on the key is `p` is the skip by the key list's entry, unless there is no such key
(43_keys_timers.md R180). -/
theorem State.withKey_skip (b : Byte) (p : Bool) :
    s.withKey b (fun k s => s.skipIf (s.key[k] == p)) =
      .next (s.unlessFault (if 0x0F < b.toNat then some (8, b.toNat) else none)
        (s.skipIf (s.key[b.toNat]? == some p))) := by
  by_cases hb : b.toNat < 16
  · rw [s.withKey_ok _ hb, if_neg (by omega), Vector.getElem?_eq_getElem hb]
    simp
  · rw [s.withKey_fault _ (by omega), if_pos (by omega), zextByte_eq_ofNat]
    rfl

end

/-! ## Every instruction answers its effect, or the fault the claims name -/

/-- Each arm of `exec` answers a next state: the instruction's effect unless `faultOf` names a fault. The arms not
listed have no check. -/
theorem exec_eq (i : Instr) (s : State) : exec i s = .next (s.unlessFault (faultOf i s) (effect i s)) := by
  cases i with
  | ret =>
    simp only [exec, execRet, faultOf, effect]
    cases h : s.stack.getLast? with
    | none => rw [if_pos (List.getLast?_eq_none_iff.1 h)]; rfl
    | some w => rw [if_neg (by rintro h0; simp [h0] at h)]; rfl
  | sys nnn =>
    simp only [exec, execSys, faultOf, effect]
    obtain ⟨hp, h⟩ | ⟨hp, h⟩ := s.illegal_cases .legacyCall (encode (.sys nnn))
    · rw [h, if_neg (by simp [hp])]; rfl
    · rw [h, if_pos hp, encode_sys]; rfl
  | call nnn =>
    simp only [exec, execCall, faultOf, effect]
    split
    · rw [zextAddr_eq_ofNat]; rfl
    · rfl
  | skp x =>
    simpa [exec, execSkp, faultOf, effect] using s.withKey_skip (s.reg x) true
  | sknp x =>
    simpa [exec, execSknp, faultOf, effect] using s.withKey_skip (s.reg x) false
  | drw x y n => exact s.withRange_read s.base n.toNat (fun s => s.draw x y n)
  | bcd x => exact s.withRange_write s.base (by decide) (fun s => s.setBytes s.base (bcdDigits (s.reg x)))
  | store x => exact s.withRange_write s.base (Nat.succ_pos _) (fun s => s.setBytes s.base (s.regsTo x))
  | load x =>
    simp only [exec, execLoad, State.withRange_read, Nat.succ_pos, true_and]
    rfl
  | _ => rfl

/-- All that an instruction can do: raise the fault the claims name, and nothing more, or take effect. -/
theorem exec_cases {i : Instr} {s t : State} (h : exec i s = .next t) :
    (∃ c info, faultOf i s = some (c, info) ∧ t = s.faulted (s.pc - 2) c (BitVec.ofNat 16 info)) ∨
      faultOf i s = none ∧ t = effect i s := by
  rw [exec_eq] at h
  injection h with h
  cases hf : faultOf i s with
  | none => rw [hf] at h; exact .inr ⟨rfl, h.symm⟩
  | some e => rw [hf] at h; exact .inl ⟨e.1, e.2, rfl, h.symm⟩

/-- The causes an instruction raises are codes of 60_exceptions.md R221, none of them 0. -/
theorem faultOf_code {i : Instr} {s : State} {c : BitVec 4} {info : Nat} (h : faultOf i s = some (c, info)) :
    c ≠ 0 ∧ c.toNat ≤ 8 := by
  unfold faultOf at h
  repeat' split at h
  all_goals cases h
  all_goals decide

/-- No check reads pc. -/
theorem faultOf_advance (i : Instr) (s : State) : faultOf i s.advance = faultOf i s := by
  cases i <;> rfl

/-! ## The cycle in `Ready` -/

/-- The model's fetch reads the word the claims name. -/
theorem State.wordAt_eq_fetched (s : State) (a : Nat) : s.wordAt a = fetched s a := by
  simp [State.wordAt, wordOfBytes, place, fetched]

/-- The state a fault of the cycle finds: pc has advanced unless the fetch itself failed (30_encoding.md R90). -/
def State.afterFetch (s : State) : State := if 0x1000 ≤ s.pc.toNat + 1 then s else s.advance

/-- All that a cycle in `Ready` can do, with the fault the claims name (30_encoding.md R90, 60_exceptions.md R229). -/
theorem readyCycle_cases (s : State) :
    (∃ c info, cycleFault s = some (c, info) ∧
        readyCycle s = .next (s.afterFetch.faulted s.pc c (BitVec.ofNat 16 info))) ∨
      cycleFault s = none ∧ s.pc.toNat + 1 < 0x1000 ∧
        ((∃ op, decode (fetched s s.pc.toNat) = .unsupported op ∧
            readyCycle s = .next (s.advance.emit (.report 4 s.pc op))) ∨
          ∃ i, decode (fetched s s.pc.toNat) = .instr i ∧ faultOf i s = none ∧
            readyCycle s = .next (effect i s.advance)) := by
  have hA : s.advance.pc - 2 = s.pc := BitVec.add_sub_cancel ..
  unfold readyCycle cycleFault State.afterFetch
  by_cases hp : 0x1000 ≤ s.pc.toNat + 1
  · simp only [if_pos hp]
    exact .inl ⟨_, _, rfl, by rw [BitVec.ofNat_toNat, BitVec.setWidth_eq]; rfl⟩
  · simp only [if_neg hp, State.wordAt_eq_fetched]
    cases decode (fetched s s.pc.toNat) with
    | unsupported op =>
      simp only [execDecoded, execUnsupported]
      cases hpol : s.params.illegalPolicy with
      | continues =>
        rw [State.illegal_continues (s := s.advance) hpol, hA]
        exact .inr ⟨rfl, by omega, .inl ⟨op, rfl, rfl⟩⟩
      | halts =>
        rw [State.illegal_halts (s := s.advance) hpol, hA]
        exact .inl ⟨4, op.toNat, rfl, by rw [BitVec.ofNat_toNat, BitVec.setWidth_eq]; rfl⟩
    | instr i =>
      simp only [execDecoded, exec_eq, faultOf_advance]
      cases hf : faultOf i s with
      | none => exact .inr ⟨rfl, by omega, .inr ⟨i, rfl, hf, rfl⟩⟩
      | some e => exact .inl ⟨e.1, e.2, rfl, by rw [← hA]; rfl⟩

end Sys2Proof.Machine
end

section
/-! PROOFS. The frames over every instruction (spec 10_state.md R22 to R48): what the effect of an instruction leaves
unchanged, field by field, and that no instruction but `CXNN` reads the random input. -/

namespace Sys2Proof.Machine

open Sys2Proof.Claims

section
variable (i : Instr) (s : State)

/-! ## The writers of each field -/

/-- A register the rule does not list is kept. The arms not listed leave the register file alone. -/
theorem effect_reg {r : RegIdx} (h : ¬ mayWrite i r) : (effect i s).reg r = s.reg r := by
  cases i with
  | ldImm x _ | addImm x _ | ldReg x _ | orReg x _ | andReg x _ | xorReg x _ | ldVxDt x =>
    exact s.reg_setReg_other _ h
  | addReg x _ | subReg x _ | shr x _ | subnReg x _ | shl x _ =>
    obtain ⟨hx, hF⟩ := not_or.1 h
    exact ((s.setReg x _).reg_setReg_other _ hF).trans (s.reg_setReg_other _ hx)
  | rnd x nn => exact (s.takeDraw.reg_setReg_other _ h).trans (State.reg_congr s.takeDraw_v r)
  | drw x y n => exact State.reg_setReg_other _ _ h
  | addI x => exact State.reg_setReg_other _ _ h
  | load x =>
    have hr : ¬ r.val < x.val + 1 := by simpa [mayWrite, Nat.lt_succ_iff] using h
    exact (s.reg_loadRegs s.base (x.val + 1) (by omega) r).trans (if_neg hr)
  | _ => exact State.reg_congr (by simp [effect]) r

theorem effect_i (hLdI : ∀ a, i ≠ .ldI a) (hAddI : ∀ x, i ≠ .addI x) (hLdFont : ∀ x, i ≠ .ldFont x) :
    (effect i s).i = s.i := by
  cases i with
  | ldI a => exact absurd rfl (hLdI a)
  | addI x => exact absurd rfl (hAddI x)
  | ldFont x => exact absurd rfl (hLdFont x)
  | _ => simp [effect, State.draw]

theorem effect_stack (hCall : ∀ a, i ≠ .call a) (hRet : i ≠ .ret) : (effect i s).stack = s.stack := by
  cases i with
  | call a => exact absurd rfl (hCall a)
  | ret => exact absurd rfl hRet
  | _ => simp [effect, State.draw]

theorem effect_dt (hLdDt : ∀ x, i ≠ .ldDtVx x) : (effect i s).dt = s.dt := by
  cases i with
  | ldDtVx x => exact absurd rfl (hLdDt x)
  | _ => simp [effect, State.draw]

theorem effect_st (hLdSt : ∀ x, i ≠ .ldStVx x) : (effect i s).st = s.st := by
  cases i with
  | ldStVx x => exact absurd rfl (hLdSt x)
  | _ => simp [effect, State.draw]

theorem effect_disp (hCls : i ≠ .cls) (hDrw : ∀ x y n, i ≠ .drw x y n) : (effect i s).disp = s.disp := by
  cases i with
  | cls => exact absurd rfl hCls
  | drw x y n => exact absurd rfl (hDrw x y n)
  | _ => simp [effect]

theorem effect_waitX (hLdKey : ∀ x, i ≠ .ldVxKey x) : (effect i s).waitX = s.waitX := by
  cases i with
  | ldVxKey x => exact absurd rfl (hLdKey x)
  | _ => simp [effect, State.draw]

theorem effect_dstate (hLdKey : ∀ x, i ≠ .ldVxKey x) : (effect i s).dstate = s.dstate := by
  cases i with
  | ldVxKey x => exact absurd rfl (hLdKey x)
  | _ => simp [effect, State.draw]

theorem effect_rnd (hRnd : ∀ x nn, i ≠ .rnd x nn) :
    (effect i s).rndIn = s.rndIn ∧ (effect i s).draws = s.draws := by
  cases i with
  | rnd x nn => exact absurd rfl (hRnd x nn)
  | _ => simp [effect, State.draw]

/-! ## The fields that no effect writes -/

@[simp] theorem effect_key : (effect i s).key = s.key := by
  cases i <;> simp [effect, State.draw]

@[simp] theorem effect_fsr : (effect i s).fsr = s.fsr := by
  cases i <;> simp [effect, State.draw]

@[simp] theorem effect_params : (effect i s).params = s.params := by
  cases i <;> simp [effect, State.draw]

@[simp] theorem effect_events : (effect i s).events = s.events := by
  cases i <;> simp [effect, State.draw]

end

/-- Settles O24: a fault writes no register, and an effect only those the rule lists. -/
theorem instructionsWriteOnlyTheirRegisters : Obligations.InstructionsWriteOnlyTheirRegisters := by
  intro i s t r h hr
  obtain ⟨c, info, -, rfl⟩ | ⟨-, rfl⟩ := exec_cases h
  · rfl
  · exact effect_reg i s hr

/-- Settles O26: a fault writes only `FSR`, the outputs and the dispatcher's state, and an effect each field by the
instructions listed for it. -/
theorem instructionsLeaveTheOtherStateAlone : Obligations.InstructionsLeaveTheOtherStateAlone := by
  intro i s t h
  obtain ⟨c, info, -, rfl⟩ | ⟨-, rfl⟩ := exec_cases h
  · simp [State.faulted]
  · exact ⟨effect_i i s, effect_stack i s, effect_dt i s, effect_st i s, effect_disp i s,
      fun hk => ⟨effect_waitX i s hk, .inl (effect_dstate i s hk)⟩, fun _ => effect_fsr i s, effect_rnd i s,
      effect_key i s, effect_params i s, effect_events i s⟩

/-! ## Another random input -/

/-- The state with the bytes `q` listed as its random input and `d` free draws made. -/
def State.withRnd (q : List Byte) (d : Nat) (s : State) : State := { s with rndIn := q, draws := d }

section
variable (q : List Byte) (d : Nat) (s : State)

theorem State.bytesAt_withRnd (a n : Nat) : (s.withRnd q d).bytesAt a n = s.bytesAt a n := by
  induction n generalizing a with
  | zero => rfl
  | succ n ih => exact congrArg (s.byteAt a :: ·) (ih (a + 1))

theorem State.setBytes_withRnd (a : Nat) (xs : List Byte) :
    (s.withRnd q d).setBytes a xs = (s.setBytes a xs).withRnd q d := by
  induction xs generalizing s a with
  | nil => rfl
  | cons x xs ih => exact ih (s.setByte a x) (a + 1)

theorem State.loadRegs_withRnd (a n : Nat) :
    (s.withRnd q d).loadRegs a n = (s.loadRegs a n).withRnd q d := by
  induction n with
  | zero => rfl
  | succ n ih => exact congrArg (State.setReg · (Fin.ofNat 16 n) (s.byteAt (a + n))) ih

theorem State.skipIf_withRnd (b : Bool) : (s.withRnd q d).skipIf b = (s.skipIf b).withRnd q d := by
  cases b <;> rfl

theorem State.draw_withRnd (x y : RegIdx) (n : Nibble) :
    (s.withRnd q d).draw x y n = (s.draw x y n).withRnd q d := by
  unfold State.draw
  rw [State.bytesAt_withRnd]
  rfl

/-- No instruction's check reads the random input. -/
theorem faultOf_withRnd (i : Instr) : faultOf i (s.withRnd q d) = faultOf i s := by
  cases i <;> rfl

/-- The arms not listed update named fields to values read from fields other than the random input. -/
theorem effect_withRnd {i : Instr} (hi : ∀ x nn, i ≠ .rnd x nn) :
    effect i (s.withRnd q d) = (effect i s).withRnd q d := by
  cases i with
  | rnd x nn => exact absurd rfl (hi x nn)
  | seImm _ _ | sneImm _ _ | seReg _ _ | sneReg _ _ | skp _ | sknp _ => exact s.skipIf_withRnd q d _
  | drw x y n => exact s.draw_withRnd q d x y n
  | bcd _ | store _ => exact s.setBytes_withRnd q d s.base _
  | load x => exact s.loadRegs_withRnd q d s.base (x.val + 1)
  | _ => rfl

/-- Raising a fault commutes as well, so an instruction that draws no byte answers the same state but for the random
input. -/
theorem exec_withRnd {i : Instr} (hi : ∀ x nn, i ≠ .rnd x nn) :
    exec i (s.withRnd q d) = mapNext (State.withRnd q d) (exec i s) := by
  rw [exec_eq, exec_eq, faultOf_withRnd, effect_withRnd q d s hi]
  cases faultOf i s <;> rfl

end

/-- Settles O27, by the commutation of every instruction but `CXNN` with a change of the random input. -/
theorem onlyTheRandomInstructionReadsTheRandomInput : Obligations.OnlyTheRandomInstructionReadsTheRandomInput := by
  intro i s t q d hi h
  refine (exec_withRnd q d s hi).trans ?_
  rw [h]
  rfl

end Sys2Proof.Machine
end

section
/-! PROOFS. The reset state (spec 10_state.md R45) and the invariant of Safety.lean: it holds at reset, and every event
keeps it. -/

namespace Sys2Proof.Machine

open Sys2Proof.Claims

/-! ## The reset contents of memory -/

theorem initByte_font (p : Config.Params) {a : Nat} (h : a < 80) : initByte p a = p.font[a] := dif_pos h

theorem initByte_of_ge (p : Config.Params) {a : Nat} (h : 80 ≤ a) : initByte p a = (cellAt p.memInit a).getD 0x00 :=
  dif_neg (Nat.not_lt.2 h)

/-- A memory that lists nothing reads as the reset contents. -/
theorem State.byteAt_of_mem_nil {s : State} (h : s.mem = []) (a : Nat) : s.byteAt a = initByte s.params a := by
  rw [State.byteAt_eq, h]
  rfl

/-- Settles O5: memory lists nothing, so it reads as the font and the defaults; the other fields are given. -/
theorem resetStateHoldsTheListedValues : Obligations.ResetStateHoldsTheListedValues := by
  refine ⟨fun a h => ?_, fun a h => ?_, fun x => ?_, rfl, rfl, rfl, rfl, rfl, fun k => ?_, fun y x => ?_, rfl, rfl, rfl⟩
  · rw [State.byteAt_of_mem_nil rfl, initByte_font _ h]
  · rw [State.byteAt_of_mem_nil rfl, initByte_of_ge _ h]
    rfl
  · simp [State.reg, State.reset]
  · simp [State.reset]
  · simp [State.reset]

/-- Settles O6: an empty memory and stack, and the reset values of the rest. -/
theorem invariantHoldsAtReset : Obligations.InvariantHoldsAtReset where
  memory := ⟨.nil, nofun⟩
  font := nofun
  index := by decide
  pc := by decide
  depth := by decide
  entries := nofun
  cause := by decide
  running := fun _ => rfl
  halted := nofun

/-! ## The operations of the cycle -/

/-- The invariant reads only these fields, so a state that agrees in them keeps it. -/
theorem State.Inv.congr {s t : State} (hs : s.Inv) (hmem : t.mem = s.mem := by rfl)
    (hparams : t.params = s.params := by rfl) (hi : t.i = s.i := by rfl) (hpc : t.pc = s.pc := by rfl)
    (hstack : t.stack = s.stack := by rfl) (hfsr : t.fsr = s.fsr := by rfl) (hd : t.dstate = s.dstate := by rfl) :
    t.Inv where
  memory := by rw [hmem, hparams]; exact hs.memory
  font := by rw [hmem]; exact hs.font
  index := by rw [hi]; exact hs.index
  pc := by rw [hpc]; exact hs.pc
  depth := by rw [hstack]; exact hs.depth
  entries := by rw [hstack]; exact hs.entries
  cause := by rw [hfsr]; exact hs.cause
  running := by rw [hd, hfsr]; exact hs.running
  halted := by rw [hd, hfsr]; exact hs.halted

section
variable {s : State}

/-- An advance inside the address space does not wrap. -/
theorem toNat_add_two {w : Word} (hw : w.toNat ≤ 0x1000) : (w + 2).toNat = w.toNat + 2 :=
  BitVec.toNat_add_of_lt (by simp; omega)

theorem State.toNat_pc_advance (hp : s.pc.toNat + 1 < 0x1000) : s.advance.pc.toNat = s.pc.toNat + 2 :=
  toNat_add_two (by omega)

theorem State.Inv.advance (hs : s.Inv) (hp : s.pc.toNat + 1 < 0x1000) : s.advance.Inv :=
  { hs with pc := by rw [State.toNat_pc_advance hp]; omega }

theorem State.Inv.afterFetch (hs : s.Inv) : s.afterFetch.Inv := by
  unfold State.afterFetch
  split
  · exact hs
  · exact hs.advance (by omega)

/-- A fault names a cause and halts. -/
theorem State.Inv.faulted (hs : s.Inv) {c : BitVec 4} (hc : c ≠ 0 ∧ c.toNat ≤ 8) (a info : Word) :
    (s.faulted a c info).Inv :=
  { hs with
    cause := hc.2
    running := nofun
    halted := fun _ => hc.1 }

/-- A run of stores above the font and inside the address space keeps memory's form and the font. -/
theorem State.Inv.setBytes (hs : s.Inv) {a : Nat} {xs : List Byte} (hlo : 0x050 ≤ a) (hhi : a + xs.length ≤ 0x1000) :
    (s.setBytes a xs).Inv where
  memory := by rw [State.setBytes_params]; exact State.setBytes_wf hs.memory hhi
  font := fun c hc => (State.mem_setBytes hc).elim (hs.font c) fun h => hlo.trans h.1
  index := by simpa using hs.index
  pc := by simpa using hs.pc
  depth := by simpa using hs.depth
  entries := by simpa using hs.entries
  cause := by simpa using hs.cause
  running := by simpa using hs.running
  halted := by simpa using hs.halted

/-! ## The effect of an instruction at handler entry -/

theorem faultOf_call_eq_none {nnn : Addr} : faultOf (.call nnn) s = none ↔ s.stack.length < 16 := by
  simp [faultOf]

theorem faultOf_bcd_eq_none {x : RegIdx} :
    faultOf (.bcd x) s = none ↔ 0x050 ≤ s.i.toNat ∧ s.i.toNat + 3 ≤ 0x1000 := by
  simp only [faultOf]
  split_ifs <;> simp <;> omega

theorem faultOf_store_eq_none {x : RegIdx} :
    faultOf (.store x) s = none ↔ 0x050 ≤ s.i.toNat ∧ s.i.toNat + (x.val + 1) ≤ 0x1000 := by
  simp only [faultOf]
  split_ifs <;> simp <;> omega

/-- An effect leaves memory alone or is a run of stores above the font and inside the address space: the others are
faults (20_memory.md R63, R66). -/
theorem effect_stores {i : Instr} (hf : faultOf i s = none) :
    (effect i s).mem = s.mem ∨
      ∃ xs, effect i s = s.setBytes s.base xs ∧ 0x050 ≤ s.base ∧ s.base + xs.length ≤ 0x1000 := by
  cases i with
  | bcd x => exact .inr ⟨_, rfl, faultOf_bcd_eq_none.1 hf⟩
  | store x => exact .inr ⟨_, rfl, by rw [State.length_regsTo]; exact faultOf_store_eq_none.1 hf⟩
  | _ => simp [effect, State.draw]

theorem State.Inv.effect_memory (hs : s.Inv) {i : Instr} (hf : faultOf i s = none) :
    Memory.wf (initByte (effect i s).params) (effect i s).mem ∧ ∀ c ∈ (effect i s).mem, Config.fontEnd ≤ c.1 := by
  obtain h | ⟨xs, h, hlo, hhi⟩ := effect_stores hf
  · rw [h, effect_params]
    exact ⟨hs.memory, hs.font⟩
  · rw [h]
    exact ⟨(hs.setBytes hlo hhi).memory, (hs.setBytes hlo hhi).font⟩

/-- The sum of `FX1E` wraps to 12 bits (44_index_memory.md R201). -/
theorem toNat_indexAdd_le {i : Word} (hi : i.toNat ≤ 0xFFF) (b : Byte) : (indexAdd i b).toNat ≤ 0xFFF := by
  have := b.isLt
  refine (Nat.mod_le _ _).trans ?_
  unfold indexSum
  split <;> omega

theorem toNat_zextAddr_le (nnn : Addr) : (zextAddr nnn).toNat ≤ 0xFFF := by
  have := nnn.isLt
  rw [zextAddr_eq_ofNat]
  exact (Nat.mod_le _ _).trans (by omega)

theorem toNat_glyphAddr_le (b : Byte) : (glyphAddr b).toNat ≤ 0xFFF := by
  have := b.isLt
  exact (Nat.mod_le _ _).trans (by omega)

theorem toNat_offsetTarget_le (nnn : Addr) (b : Byte) : (offsetTarget nnn b).toNat ≤ 0x10FE := by
  have := nnn.isLt
  have := b.isLt
  rw [offsetTarget_eq_ofNat]
  exact (Nat.mod_le _ _).trans (by omega)

/-- Every value written to `I` is a 12-bit address (10_state.md R26). -/
theorem effect_index (i : Instr) (hi : s.i.toNat ≤ 0xFFF) : (effect i s).i.toNat ≤ 0xFFF := by
  cases i with
  | ldI nnn => exact toNat_zextAddr_le nnn
  | addI x => exact toNat_indexAdd_le hi (s.reg x)
  | ldFont x => exact toNat_glyphAddr_le (s.reg x)
  | _ => simpa [effect, State.draw] using hi

theorem State.toNat_pc_skipIf_le (hp : s.pc.toNat ≤ 0x1000) (b : Bool) : (s.skipIf b).pc.toNat ≤ 0x10FE := by
  rw [State.skipIf_pc]
  split
  · rw [toNat_add_two hp]
    omega
  · omega

/-- Every value written to pc is at most 0x10FE (10_state.md R30). -/
theorem effect_pc_le (i : Instr) (hp : s.pc.toNat ≤ 0x1000) (hst : ∀ w ∈ s.stack, w.toNat ≤ 0x1000) :
    (effect i s).pc.toNat ≤ 0x10FE := by
  cases i with
  | ret =>
    rw [effect, State.setPc_pc]
    cases h : s.stack.getLast? with
    | none => decide
    | some w => exact (hst w (List.mem_of_getLast? h)).trans (by decide)
  | jp nnn | call nnn => exact (toNat_zextAddr_le nnn).trans (by decide)
  | seImm _ _ | sneImm _ _ | seReg _ _ | sneReg _ _ | skp _ | sknp _ => exact State.toNat_pc_skipIf_le hp _
  | jpV0 nnn => exact toNat_offsetTarget_le nnn (s.reg 0)
  | _ =>
    have hpc : s.pc.toNat ≤ 0x10FE := hp.trans (by decide)
    simpa [effect, State.draw] using hpc

/-- A call with a full stack is a fault (10_state.md R32). -/
theorem effect_depth {i : Instr} (hd : s.stack.length ≤ 16) (hf : faultOf i s = none) :
    (effect i s).stack.length ≤ 16 := by
  cases i with
  | call nnn => simpa [effect] using faultOf_call_eq_none.1 hf
  | ret => exact (List.dropLast_sublist _).length_le.trans hd
  | _ => simpa [effect, State.draw] using hd

/-- The only value pushed is the pc at handler entry (10_state.md R42). -/
theorem effect_entries (i : Instr) (hp : s.pc.toNat ≤ 0x1000) (hst : ∀ w ∈ s.stack, w.toNat ≤ 0x1000) :
    ∀ w ∈ (effect i s).stack, w.toNat ≤ 0x1000 := by
  intro w hw
  cases i with
  | call nnn =>
    obtain h | h := List.mem_append.1 hw
    · exact hst w h
    · rw [List.mem_singleton.1 h]; exact hp
  | ret => exact hst w (List.dropLast_subset _ hw)
  | _ => exact hst w (by simpa [effect, State.draw] using hw)

/-- No effect halts a core. -/
theorem effect_dstate_running (i : Instr) (hd : s.dstate = .ready) : (effect i s).dstate ≠ .halted := by
  cases i with
  | ldVxKey x => nofun
  | _ => simp [effect, State.draw, hd]

theorem State.Inv.effect (hs : s.Inv) {i : Instr} (hd : s.dstate = .ready) (hp : s.pc.toNat ≤ 0x1000)
    (hf : faultOf i s = none) : (effect i s).Inv where
  memory := (hs.effect_memory hf).1
  font := (hs.effect_memory hf).2
  index := effect_index i hs.index
  pc := effect_pc_le i hp hs.entries
  depth := effect_depth hs.depth hf
  entries := effect_entries i hp hs.entries
  cause := by rw [effect_fsr]; exact hs.cause
  running := fun _ => (effect_fsr i s).trans (hs.running (.inl hd))
  halted := fun h => absurd h (effect_dstate_running i hd)

/-! ## The events -/

theorem State.Inv.takeEvent (hs : s.Inv) : s.takeEvent.Inv := hs.congr

/-- The causes of a cycle are codes of 60_exceptions.md R221, none of them 0. -/
theorem cycleFault_code {c : BitVec 4} {info : Nat} (h : cycleFault s = some (c, info)) : c ≠ 0 ∧ c.toNat ≤ 8 := by
  unfold cycleFault at h
  split at h
  · cases h
    decide
  · split at h
    · split at h
      · cases h
        decide
      · cases h
    · exact faultOf_code h

theorem State.Inv.readyCycle {t : State} (hs : s.Inv) (hd : s.dstate = .ready) (h : readyCycle s = .next t) :
    t.Inv := by
  obtain ⟨c, info, hc, hr⟩ | ⟨-, hp, ⟨op, -, hr⟩ | ⟨i, -, hf, hr⟩⟩ := readyCycle_cases s
  all_goals
    rw [hr] at h
    injection h with h
    subst h
  · exact hs.afterFetch.faulted (cycleFault_code hc) ..
  · exact (hs.advance hp).congr
  · refine (hs.advance hp).effect hd ?_ (faultOf_advance i s ▸ hf)
    rw [State.toNat_pc_advance hp]
    omega

theorem State.Inv.cycle {t : State} (hs : s.Inv) (h : cycle s = .next t) : t.Inv := by
  by_cases hd : s.dstate = .ready
  · exact hs.readyCycle hd (cycle_ready hd ▸ h)
  · rw [cycle_idle hd] at h
    injection h with h
    exact h ▸ hs

theorem State.Inv.tick (hs : s.Inv) : (tick s).Inv := by
  by_cases hd : s.dstate = .ready
  · rw [tick_ready hd]
    exact hs.congr
  · rw [tick_idle hd]
    exact hs

/-- `FSR` is zero while a core waits, so it is when the wait resolves. -/
theorem State.Inv.keyEvent (hs : s.Inv) (k : RegIdx) (p : Bool) : (keyEvent k p s).Inv := by
  have hset : (s.setKey k p).Inv := hs.congr
  unfold Machine.keyEvent
  cases hd : s.dstate with
  | ready => exact hset
  | awaitingKey =>
    dsimp only
    split
    · exact { hs with
        running := fun _ => hs.running (.inr hd)
        halted := nofun }
    · exact hset
  | halted => exact hs
  | terminated => exact hs

theorem State.Inv.quit (hs : s.Inv) : (quit s).Inv :=
  { hs with
    running := nofun
    halted := nofun }

/-- Of the fields in which a cleared core differs from the reset state, the invariant reads the parameters alone, for
the cells that memory lists; here it lists none. -/
theorem State.inv_cleared (s : State) : s.cleared.Inv :=
  { invariantHoldsAtReset with memory := ⟨.nil, nofun⟩ }

end

/-- Settles O7, event by event. -/
theorem everyStepKeepsTheInvariant : Obligations.EveryStepKeepsTheInvariant := by
  intro s t hs h
  obtain ⟨rom, -, hl, rfl⟩ | ⟨-, hc⟩ | ⟨-, rfl⟩ | ⟨k, p, -, rfl⟩ | ⟨-, rfl⟩ := step_cases h
  · exact s.takeEvent.inv_cleared.setBytes (by decide) (Nat.add_le_add_left hl 0x200)
  · exact hs.takeEvent.cycle hc
  · exact hs.takeEvent.tick
  · exact hs.takeEvent.keyEvent k p
  · exact hs.takeEvent.quit

end Sys2Proof.Machine
end

section
/-! PROOFS. The pc table and the writers of `FSR` (spec 10_state.md R28, R41). -/

namespace Sys2Proof.Machine

open Sys2Proof.Claims

/-! ## A step that is a cycle in `Ready` -/

theorem step_eq_readyCycle {s : State} (he : s.nextEvent = .cycle) (hd : s.dstate = .ready) :
    step s = readyCycle s.takeEvent := by
  rw [step_eq, he]
  exact cycle_ready hd

theorem fetched_takeEvent (s : State) (a : Nat) : fetched s.takeEvent a = fetched s a := rfl

theorem State.afterFetch_pc (s : State) :
    s.afterFetch.pc = if 0x1000 ≤ s.pc.toNat + 1 then s.pc else s.pc + 2 := by
  unfold State.afterFetch
  split <;> rfl

/-! ## The pc table -/

theorem State.skipIf_advance_pc (s : State) {b : Bool} {p : Prop} [Decidable p] (h : b = true ↔ p) :
    (s.advance.skipIf b).pc = if p then s.pc + 4 else s.pc + 2 := by
  rw [State.skipIf_pc, State.advance_eq, State.setPc_pc, BitVec.add_assoc]
  exact if_congr h rfl rfl

/-- The effect on the state after the fetch leaves the table's pc (10_state.md R28). The arms not listed leave pc where
the fetch put it. -/
theorem effect_advance_pc (i : Instr) (s : State) : (effect i s.advance).pc = pcAfter i s := by
  cases i with
  | jp _ | call _ | ret => rfl
  | jpV0 nnn => exact offsetTarget_eq_ofNat nnn (s.reg 0)
  | seImm _ _ | seReg _ _ | skp _ | sknp _ => exact s.skipIf_advance_pc beq_iff_eq
  | sneImm _ _ | sneReg _ _ => exact s.skipIf_advance_pc bne_iff_ne
  | _ => simp [effect, State.draw, pcAfter]

/-- Settles O12, by what a cycle can do: a fault, an unsupported word, or the effect of an instruction. -/
theorem pcAfterACycleIsTheTablesOne : Obligations.PcAfterACycleIsTheTablesOne := by
  intro s he hd
  rw [step_eq_readyCycle he hd]
  obtain ⟨c, info, -, hr⟩ | ⟨-, hp, ⟨op, hop, hr⟩ | ⟨i, hi, -, hr⟩⟩ := readyCycle_cases s.takeEvent
  · refine ⟨_, hr, fun hp => ?_, fun hp _ => ?_, fun _ hh => absurd rfl hh⟩
    · exact s.takeEvent.afterFetch_pc.trans (if_pos hp)
    · exact s.takeEvent.afterFetch_pc.trans (if_neg (Nat.not_le.2 hp))
  · rw [fetched_takeEvent] at hop
    refine ⟨_, hr, fun hp' => absurd hp (Nat.not_lt.2 hp'), fun _ _ => rfl, fun _ _ =>
      ⟨fun _ _ => rfl, fun i hi => ?_, fun x hx => ?_⟩⟩
    · exact nomatch hop.symm.trans hi
    · exact nomatch hop.symm.trans hx
  · rw [fetched_takeEvent] at hi
    refine ⟨_, hr, fun hp' => absurd hp (Nat.not_lt.2 hp'), fun _ hh => ?_, fun _ _ =>
      ⟨fun op hop => ?_, fun j hj => ?_, fun x hx => ?_⟩⟩
    · exact absurd hh (effect_dstate_running i hd)
    · exact nomatch hi.symm.trans hop
    · obtain rfl : i = j := by injection hi.symm.trans hj
      exact effect_advance_pc i s.takeEvent
    · obtain rfl : i = .ldVxKey x := by injection hi.symm.trans hx
      rfl

/-! ## The writers of `FSR` -/

@[simp] theorem tick_fsr (s : State) : (tick s).fsr = s.fsr := by
  unfold tick
  split <;> rfl

@[simp] theorem keyEvent_fsr (k : RegIdx) (p : Bool) (s : State) : (keyEvent k p s).fsr = s.fsr := by
  unfold keyEvent
  split
  case h_2 => split <;> rfl
  all_goals rfl

/-- A cycle that changes `FSR` raised a fault, whose cause and address `FSR` holds. -/
theorem cycle_fsr {s t : State} (h : cycle s = .next t) (hne : t.fsr ≠ s.fsr) :
    s.dstate = .ready ∧ t.dstate = .halted ∧ t.fsr.cause ≠ 0 ∧ t.fsr.fpc = s.pc := by
  by_cases hd : s.dstate = .ready
  · rw [cycle_ready hd] at h
    obtain ⟨c, info, hc, hr⟩ | ⟨-, -, ⟨op, -, hr⟩ | ⟨i, -, -, hr⟩⟩ := readyCycle_cases s
    all_goals
      rw [hr] at h
      injection h with h
      subst h
    · exact ⟨hd, rfl, (cycleFault_code hc).1, rfl⟩
    · exact absurd rfl hne
    · exact absurd (effect_fsr i s.advance) hne
  · rw [cycle_idle hd] at h
    injection h with h
    exact absurd (h ▸ rfl) hne

/-- Settles O16, event by event. -/
theorem fsrIsWrittenByFaultsAndClearedByReset : Obligations.FsrIsWrittenByFaultsAndClearedByReset := by
  intro s t h hne
  obtain ⟨rom, he, -, rfl⟩ | ⟨he, hc⟩ | ⟨-, rfl⟩ | ⟨k, p, -, rfl⟩ | ⟨-, rfl⟩ := step_cases h
  · exact .inr ⟨rom, he, by rw [State.setBytes_fsr]; rfl⟩
  · exact .inl ⟨he, cycle_fsr (s := s.takeEvent) hc hne⟩
  · exact absurd (tick_fsr s.takeEvent) hne
  · exact absurd (keyEvent_fsr k p s.takeEvent) hne
  · exact absurd rfl hne

end Sys2Proof.Machine
end

section
/-! PROOFS. Memory (spec 20_memory.md R60, R63, R68, R73): which bytes an instruction leaves alone, the font region, and
the fetch of a word just stored. -/

namespace Sys2Proof.Machine

open Sys2Proof.Claims

/-! ## The frame of memory over every instruction -/

/-- A byte the rule does not list is kept. The arms not listed leave memory alone. -/
theorem effect_byteAt {i : Instr} {s : State} {a : Nat} (h : ¬ mayStore i s a) :
    (effect i s).byteAt a = s.byteAt a := by
  cases i with
  | bcd x =>
    simp only [mayStore] at h
    exact s.byteAt_setBytes_outside _ (by simp only [length_bcdDigits, State.base_eq]; omega)
  | store x =>
    simp only [mayStore] at h
    exact s.byteAt_setBytes_outside _ (by simp only [State.length_regsTo, State.base_eq]; omega)
  | _ => exact State.byteAt_congr (by simp [effect, State.draw]) (effect_params _ s) a

/-- No effect halts a core, in whatever state the core is. -/
theorem effect_dstate_ne_halted (i : Instr) {s : State} (h : s.dstate ≠ .halted) : (effect i s).dstate ≠ .halted := by
  cases i with
  | ldVxKey x => nofun
  | _ => simpa [effect, State.draw] using h

/-- Settles O25: a fault leaves memory alone, and an effect, which is no fault, every byte the rule does not list. -/
theorem instructionsStoreOnlyAtTheirAddresses : Obligations.InstructionsStoreOnlyAtTheirAddresses := by
  intro i s t a h ha
  obtain ⟨c, info, -, rfl⟩ | ⟨-, rfl⟩ := exec_cases h
  · rfl
  · obtain hstore | ⟨hhalted, hs⟩ := ha
    · exact effect_byteAt hstore
    · exact absurd hhalted (effect_dstate_ne_halted i hs)

/-! ## The font region -/

/-- Memory lists no cell of the font region, so it reads as the `FONT`. -/
theorem State.Inv.byteAt_font {s : State} (hs : s.Inv) {a : Nat} (h : a < 80) : s.byteAt a = s.params.font[a] := by
  have hnone : cellAt s.mem a = none := cellAt_eq_none fun c hc => (Nat.lt_of_lt_of_le h (hs.font c hc)).ne
  rw [State.byteAt_eq, Memory.read, hnone]
  exact initByte_font s.params h

@[simp] theorem tick_params (s : State) : (tick s).params = s.params := by
  unfold tick
  split <;> rfl

@[simp] theorem keyEvent_params (k : RegIdx) (p : Bool) (s : State) : (keyEvent k p s).params = s.params := by
  unfold keyEvent
  split
  case h_2 => split <;> rfl
  all_goals rfl

theorem State.afterFetch_params (s : State) : s.afterFetch.params = s.params := by
  unfold State.afterFetch
  split <;> rfl

theorem cycle_params {s t : State} (h : cycle s = .next t) : t.params = s.params := by
  by_cases hd : s.dstate = .ready
  · rw [cycle_ready hd] at h
    obtain ⟨c, info, -, hr⟩ | ⟨-, -, ⟨op, -, hr⟩ | ⟨i, -, -, hr⟩⟩ := readyCycle_cases s
    all_goals
      rw [hr] at h
      injection h with h
      subst h
    · exact s.afterFetch_params
    · rfl
    · exact effect_params i s.advance
  · rw [cycle_idle hd] at h
    injection h with h
    rw [h]

/-- The parameters are no state of the core: no event writes them (10_state.md R46). -/
theorem step_params {s t : State} (h : step s = .next t) : t.params = s.params := by
  obtain ⟨rom, -, -, rfl⟩ | ⟨-, hc⟩ | ⟨-, rfl⟩ | ⟨k, p, -, rfl⟩ | ⟨-, rfl⟩ := step_cases h
  · exact State.setBytes_params ..
  · exact cycle_params (s := s.takeEvent) hc
  · exact tick_params s.takeEvent
  · exact keyEvent_params k p s.takeEvent
  · rfl

/-- Settles O8: both states meet the invariant, so both read the `FONT` of the same parameters. -/
theorem noStepChangesTheFont : Obligations.NoStepChangesTheFont := by
  intro s t hs h
  have hp : t.params = s.params := step_params h
  have hfont : ∀ (a : Nat) (ha : a < 80), t.byteAt a = s.params.font[a] := fun a ha =>
    hp ▸ (everyStepKeepsTheInvariant s t hs h).byteAt_font ha
  exact ⟨fun a ha => (hfont a ha).trans (hs.byteAt_font ha).symm, hfont, hp⟩

/-! ## A store and the next fetch -/

/-- Each register stored stands at its own offset (44_index_memory.md R204). -/
theorem State.byteAt_setBytes_regsTo {s : State} (hm : Memory.wf (initByte s.params) s.mem) {x k : RegIdx} {a : Nat}
    (ha : a + x.val < 0x1000) (hk : k.val ≤ x.val) : (s.setBytes a (s.regsTo x)).byteAt (a + k.val) = s.reg k := by
  have hlen : k.val < (s.regsTo x).length := by rw [State.length_regsTo]; omega
  rw [State.byteAt_setBytes_inside hm (by rw [State.length_regsTo]; simp only [Config.memSize]; omega) hlen]
  exact s.getElem_regsTo x k hlen

/-- The word at the address of a store of two or more registers is V0 and V1. -/
theorem fetched_setBytes_regsTo {s : State} (hm : Memory.wf (initByte s.params) s.mem) {x : RegIdx} (hx : 1 ≤ x.val)
    {a : Nat} (ha : a + x.val < 0x1000) :
    fetched (s.setBytes a (s.regsTo x)) a = (s.reg 0).setWidth 16 <<< 8 ||| (s.reg 1).setWidth 16 := by
  have h0 : (s.setBytes a (s.regsTo x)).byteAt a = s.reg 0 := State.byteAt_setBytes_regsTo (k := 0) hm ha (by simp)
  have h1 : (s.setBytes a (s.regsTo x)).byteAt (a + 1) = s.reg 1 := State.byteAt_setBytes_regsTo (k := 1) hm ha hx
  rw [fetched, h0, h1]

/-- A store with no check failing answers the run of stores. -/
theorem exec_store_ok {s : State} {x : RegIdx} (hlo : 0x050 ≤ s.i.toNat) (hhi : s.i.toNat + x.val < 0x1000) :
    exec (.store x) s = .next (s.setBytes s.i.toNat (s.regsTo x)) := by
  rw [exec_eq, faultOf_store_eq_none.2 ⟨hlo, hhi⟩]
  rfl

/-- A cycle in `Ready` on a word inside the address space runs its instruction, pc advanced (30_encoding.md R90). -/
theorem readyCycle_instr {s : State} {i : Instr} (hp : s.pc.toNat + 1 < 0x1000)
    (hi : decode (fetched s s.pc.toNat) = .instr i) : readyCycle s = exec i s.advance := by
  rw [readyCycle, if_neg (Nat.not_le.2 hp), State.wordAt_eq_fetched, hi]
  rfl

/-- Settles O56: the cycle fetches from the memory the store left, which holds V0 and V1 at I. -/
theorem storedWordIsFetchedByTheNextCycle : Obligations.StoredWordIsFetchedByTheNextCycle := by
  intro x s t i hm hlo hx hhi hstore hd hev hi
  rw [exec_store_ok hlo hhi] at hstore
  injection hstore with hstore
  subst hstore
  rw [← fetched_setBytes_regsTo hm hx hhi] at hi
  have hp : s.i.toNat + 1 < 0x1000 := by omega
  refine (step_eq_readyCycle ?_ ?_).trans (readyCycle_instr hp hi)
  · exact hev
  · exact (s.setBytes_dstate ..).trans hd

end Sys2Proof.Machine
end

section
/-! PROOFS. Decoding and encoding are inverse to each other, and which words decode to the legacy call or to the
`UNSUPPORTED` class (spec 30_encoding.md R81 to R89). -/

namespace Sys2Proof

/-! ## Decoding an encoded instruction -/

theorem wf_sys_iff (nnn : Addr) : (Instr.sys nnn).wf = true ↔ nnn ≠ 0x0E0 ∧ nnn ≠ 0x0EE := by
  simp [Instr.wf]

theorem decode0_eq_sys {op : Word} (hcls : op ≠ 0x00E0) (hret : op ≠ 0x00EE) : decode0 op = .sys (Word.nnn op) :=
  (if_neg hcls).trans (if_neg hret)

/-- A legacy call's word is neither `00E0` nor `00EE` when its operand is neither 0x0E0 nor 0x0EE (R86). -/
theorem decode0_formatA {nnn : Addr} (h : (Instr.sys nnn).wf = true) : decode0 (formatA 0x0 nnn) = .sys nnn := by
  obtain ⟨hcls, hret⟩ := (wf_sys_iff nnn).1 h
  have hnnn : Word.nnn (formatA 0x0 nnn) = nnn := nnn_formatA 0x0 nnn
  rw [decode0_eq_sys (fun e => hcls (hnnn.symm.trans (congrArg Word.nnn e)))
    (fun e => hret (hnnn.symm.trans (congrArg Word.nnn e))), hnnn]

/-- The fields that `decode` reads of an encoded word are those its format was built from. -/
theorem decode_encode {i : Instr} (h : i.wf = true) : decode (encode i) = .instr i := by
  cases i with
  | cls | ret => decide
  | sys nnn => simpa [encode, decode] using decode0_formatA h
  | ldReg x y | orReg x y | andReg x y | xorReg x y | addReg x y | subReg x y | shr x y | subnReg x y | shl x y =>
    simp [encode, decode, decode8]
  | skp x | sknp x => simp [encode, decode, decodeE]
  | ldVxDt x | ldVxKey x | ldDtVx x | ldStVx x | addI x | ldFont x | bcd x | store x | load x =>
    simp [encode, decode, decodeF]
  | _ => simp [encode, decode]

/-- Settles O2: the two bytes are put together to the word encoded, and the word decodes to the instruction. -/
theorem decodingAnEncodedInstructionGivesItBack : Obligations.DecodingAnEncodedInstructionGivesItBack := by
  intro i hi
  refine ⟨decode_encode hi, fun rest => ?_⟩
  simp only [encodeBytes, List.cons_append, List.nil_append, decodeBytes, wordOfBytes_bytes, decode_encode hi]

/-! ## Encoding a decoded word -/

/-- What decoding `op` may answer: a well-formed instruction whose word is `op`, or `op` itself as unsupported. -/
def Decoded.AccountsFor (op : Word) : Decoded → Prop
  | .instr i => i.wf = true ∧ encode i = op
  | .unsupported w => w = op

section
variable {op : Word}

/-- A word of format `A`, rebuilt from its operand. -/
theorem formatA_of_family {f : Nibble} (hf : (Word.family op).toNat = f.toNat) : formatA f (Word.nnn op) = op := by
  rw [← BitVec.eq_of_toNat_eq hf, formatA_fields]

/-- A word of format `XNN`, rebuilt from its operands. -/
theorem formatXNN_of_family {f : Nibble} (hf : (Word.family op).toNat = f.toNat) :
    formatXNN f (Word.x op) (Word.nn op) = op := by
  rw [← BitVec.eq_of_toNat_eq hf, formatXNN_fields]

/-- A word of format `XS`, rebuilt from its operand and its fixed low byte. -/
theorem formatXNN_of_nn {f : Nibble} {k : Byte} (hf : (Word.family op).toNat = f.toNat)
    (hk : (Word.nn op).toNat = k.toNat) : formatXNN f (Word.x op) k = op := by
  rw [← BitVec.eq_of_toNat_eq hk, formatXNN_of_family hf]

/-- A word of format `XYN`, rebuilt from its operands. -/
theorem formatXYN_of_family {f : Nibble} (hf : (Word.family op).toNat = f.toNat) :
    formatXYN f (Word.x op) (Word.y op) (Word.n op) = op := by
  rw [← BitVec.eq_of_toNat_eq hf, formatXYN_fields]

/-- A word of format `XYS`, rebuilt from its operands and its fixed low nibble. -/
theorem formatXYN_of_n {f n : Nibble} (hf : (Word.family op).toNat = f.toNat)
    (hn : (Word.n op).toNat = n.toNat) : formatXYN f (Word.x op) (Word.y op) n = op := by
  rw [← BitVec.eq_of_toNat_eq hn, formatXYN_of_family hf]

theorem decode0_accountsFor (hf : (Word.family op).toNat = 0x0) : Decoded.AccountsFor op (.instr (decode0 op)) := by
  unfold decode0
  split
  · next h => exact ⟨rfl, h.symm⟩
  · next hcls =>
    split
    · next h => exact ⟨rfl, h.symm⟩
    · next hret =>
      have hw : formatA 0x0 (Word.nnn op) = op := formatA_of_family hf
      refine ⟨(wf_sys_iff _).2 ⟨fun h => hcls ?_, fun h => hret ?_⟩, hw⟩
      all_goals rw [← hw, h]; rfl

theorem decode8_accountsFor (hf : (Word.family op).toNat = 0x8) : Decoded.AccountsFor op (decode8 op) := by
  unfold decode8
  split
  case h_10 => rfl
  all_goals next hn => exact ⟨rfl, formatXYN_of_n hf hn⟩

theorem decodeE_accountsFor (hf : (Word.family op).toNat = 0xE) : Decoded.AccountsFor op (decodeE op) := by
  unfold decodeE
  split
  case h_3 => rfl
  all_goals next hk => exact ⟨rfl, formatXNN_of_nn hf hk⟩

theorem decodeF_accountsFor (hf : (Word.family op).toNat = 0xF) : Decoded.AccountsFor op (decodeF op) := by
  unfold decodeF
  split
  case h_10 => rfl
  all_goals next hk => exact ⟨rfl, formatXNN_of_nn hf hk⟩

/-- Every outcome of the decoder accounts for the whole word: no bit is ignored. -/
theorem decode_accountsFor (op : Word) : Decoded.AccountsFor op (decode op) := by
  unfold decode
  split
  case h_1 hf => exact decode0_accountsFor hf
  case h_2 hf | h_3 hf | h_11 hf | h_12 hf => exact ⟨rfl, formatA_of_family hf⟩
  case h_4 hf | h_5 hf | h_7 hf | h_8 hf | h_13 hf => exact ⟨rfl, formatXNN_of_family hf⟩
  case h_6 hf | h_10 hf =>
    split
    · next hn => exact ⟨rfl, formatXYN_of_n hf (congrArg BitVec.toNat hn)⟩
    · rfl
  case h_9 hf => exact decode8_accountsFor hf
  case h_14 hf => exact ⟨rfl, formatXYN_of_family hf⟩
  case h_15 hf => exact decodeE_accountsFor hf
  case h_16 =>
    have hlt := (Word.family op).isLt
    simp only [imp_false] at *
    exact decodeF_accountsFor (by omega)

end

theorem wf_and_encode_of_decode {op : Word} {i : Instr} (h : decode op = .instr i) : i.wf = true ∧ encode i = op := by
  have hof := decode_accountsFor op
  rwa [h] at hof

theorem eq_of_decode_unsupported {op w : Word} (h : decode op = .unsupported w) : w = op := by
  have hof := decode_accountsFor op
  rwa [h] at hof

/-- Settles O3: each outcome of the decoder accounts for its word. -/
theorem encodingADecodedWordGivesItBack : Obligations.EncodingADecodedWordGivesItBack :=
  fun _ _ => wf_and_encode_of_decode

/-! ## The legacy and the unsupported words -/

/-- The legacy words: family 0 but for `00E0` and `00EE` (R86). -/
theorem decode_sys_iff (op : Word) :
    (∃ nnn, decode op = .instr (.sys nnn)) ↔ Word.family op = 0x0 ∧ op ≠ 0x00E0 ∧ op ≠ 0x00EE := by
  constructor
  · rintro ⟨nnn, h⟩
    have hcls : decode 0x00E0 = .instr .cls := by decide
    have hret : decode 0x00EE = .instr .ret := by decide
    refine ⟨?_, ?_, ?_⟩
    · rw [← (wf_and_encode_of_decode h).2]
      exact family_formatA 0x0 nnn
    · rintro rfl
      exact nomatch hcls.symm.trans h
    · rintro rfl
      exact nomatch hret.symm.trans h
  · rintro ⟨hf, hcls, hret⟩
    refine ⟨Word.nnn op, ?_⟩
    rw [decode, hf, decode0_eq_sys hcls hret]
    rfl

/-- The reserved low nibbles of family 8 (R88). -/
theorem decode8_unsupported_iff (op : Word) :
    (∃ w, decode8 op = .unsupported w) ↔
      Word.n op = 0x8 ∨ Word.n op = 0x9 ∨ Word.n op = 0xA ∨ Word.n op = 0xB ∨ Word.n op = 0xC ∨ Word.n op = 0xD ∨
        Word.n op = 0xF := by
  have hlt := (Word.n op).isLt
  simp only [← BitVec.toNat_inj, BitVec.reduceToNat]
  unfold decode8
  split
  case h_10 =>
    simp only [imp_false] at *
    exact iff_of_true ⟨op, rfl⟩ (by omega)
  all_goals next hn => simp [hn]

/-- The reserved low bytes of family E (R89). -/
theorem decodeE_unsupported_iff (op : Word) :
    (∃ w, decodeE op = .unsupported w) ↔ Word.nn op ≠ 0x9E ∧ Word.nn op ≠ 0xA1 := by
  simp only [ne_eq, ← BitVec.toNat_inj]
  unfold decodeE
  split
  case h_3 h9E hA1 => exact iff_of_true ⟨op, rfl⟩ ⟨h9E, hA1⟩
  all_goals next hk => simp [hk]

/-- The reserved low bytes of family F (R89). -/
theorem decodeF_unsupported_iff (op : Word) :
    (∃ w, decodeF op = .unsupported w) ↔
      Word.nn op ≠ 0x07 ∧ Word.nn op ≠ 0x0A ∧ Word.nn op ≠ 0x15 ∧ Word.nn op ≠ 0x18 ∧ Word.nn op ≠ 0x1E ∧
        Word.nn op ≠ 0x29 ∧ Word.nn op ≠ 0x33 ∧ Word.nn op ≠ 0x55 ∧ Word.nn op ≠ 0x65 := by
  simp only [ne_eq, ← BitVec.toNat_inj]
  unfold decodeF
  split
  case h_10 h07 h0A h15 h18 h1E h29 h33 h55 h65 =>
    exact iff_of_true ⟨op, rfl⟩ ⟨h07, h0A, h15, h18, h1E, h29, h33, h55, h65⟩
  all_goals next hk => simp [hk]

/-- The unsupported words, by family: only 5, 9, 8, E and F have any (R87 to R89). -/
theorem decode_unsupported_iff (op : Word) :
    (∃ w, decode op = .unsupported w) ↔
      ((Word.family op = 0x5 ∨ Word.family op = 0x9) ∧ Word.n op ≠ 0) ∨
        (Word.family op = 0x8 ∧ ∃ w, decode8 op = .unsupported w) ∨
        (Word.family op = 0xE ∧ ∃ w, decodeE op = .unsupported w) ∨
        (Word.family op = 0xF ∧ ∃ w, decodeF op = .unsupported w) := by
  have hlt := (Word.family op).isLt
  have hinj : ∀ f : Nibble, Word.family op = f ↔ (Word.family op).toNat = f.toNat := fun f => BitVec.toNat_inj.symm
  simp only [hinj]
  unfold decode
  split
  case h_6 hf | h_10 hf => split <;> simp_all
  case h_16 =>
    simp only [imp_false] at *
    have hf : (Word.family op).toNat = 0xF := by omega
    simp [hf]
  all_goals next hf => simp [hf]

/-- Settles O4, family by family. -/
theorem legacyAndUnsupportedWordsAreTheListedOnes : Obligations.LegacyAndUnsupportedWordsAreTheListedOnes := by
  intro op
  refine ⟨decode_sys_iff op, ?_, fun w => eq_of_decode_unsupported⟩
  have h := decode_unsupported_iff op
  rwa [decode8_unsupported_iff, decodeE_unsupported_iff, decodeF_unsupported_iff] at h

/-- Settles O1: each word is decoded. -/
theorem sampleWordsDecodeAsThePatternsSay : Obligations.SampleWordsDecodeAsThePatternsSay := by
  unfold Obligations.SampleWordsDecodeAsThePatternsSay
  decide

end Sys2Proof
end

section
/-! PROOFS. The cycle and the dispatcher's transitions (spec 30_encoding.md R90 to R93). -/

namespace Sys2Proof.Machine

open Sys2Proof.Claims

/-! ## The cycle, by dispatcher state -/

/-- A fetch whose second byte lies outside the address space faults, pc unchanged (R90). -/
theorem readyCycle_fetchFault {s : State} (hp : 0x1000 ≤ s.pc.toNat + 1) :
    readyCycle s = .next (s.faulted s.pc 1 s.pc) := by
  rw [readyCycle, if_pos hp]
  rfl

/-- An unsupported word is met at the state with pc advanced (60_exceptions.md R228). -/
theorem readyCycle_unsupported {s : State} {op : Word} (hp : s.pc.toNat + 1 < 0x1000)
    (hop : decode (fetched s s.pc.toNat) = .unsupported op) :
    readyCycle s = .next (s.advance.illegal .unsupportedOpcode op) := by
  rw [readyCycle, if_neg (Nat.not_le.2 hp), State.wordAt_eq_fetched, hop]
  rfl

theorem State.advance_pc_sub_two (s : State) : s.advance.pc - 2 = s.pc := BitVec.add_sub_cancel ..

/-- Settles O9: a step that takes a cycle in `Ready` is that cycle; its cases are the failed fetch, an instruction, and
an unsupported word under either policy. -/
theorem readyCycleFetchesAdvancesAndRuns : Obligations.ReadyCycleFetchesAdvancesAndRuns := by
  intro s he hd
  rw [step_eq_readyCycle he hd]
  refine ⟨readyCycle_fetchFault (s := s.takeEvent), fun hp =>
    ⟨fun _ => readyCycle_instr (s := s.takeEvent) hp, fun op hop hpol => ?_, fun op hop hpol => ?_⟩⟩
  · rw [readyCycle_unsupported (s := s.takeEvent) hp hop, State.illegal_continues (s := s.takeEvent.advance) hpol,
      State.advance_pc_sub_two]
    rfl
  · rw [readyCycle_unsupported (s := s.takeEvent) hp hop, State.illegal_halts (s := s.takeEvent.advance) hpol,
      State.advance_pc_sub_two]
    rfl

/-- Settles O10. -/
theorem cycleOutsideReadyDoesNothing : Obligations.CycleOutsideReadyDoesNothing := by
  intro s he hd
  rw [step_eq, he]
  exact cycle_idle (s := s.takeEvent) hd

/-! ## Which events change the dispatcher's state -/

/-- A cycle that changes the dispatcher's state runs `FX0A` or raises a fault. -/
theorem cycle_dstate {s t : State} (h : cycle s = .next t) (hne : t.dstate ≠ s.dstate) :
    s.dstate = .ready ∧
      (t.dstate = .awaitingKey ∧ (∃ x, decode (fetched s s.pc.toNat) = .instr (.ldVxKey x) ∧ t.waitX = x) ∨
        t.dstate = .halted ∧ t.fsr.cause ≠ 0) := by
  by_cases hd : s.dstate = .ready
  · refine ⟨hd, ?_⟩
    rw [cycle_ready hd] at h
    obtain ⟨c, info, hc, hr⟩ | ⟨-, -, ⟨op, -, hr⟩ | ⟨i, hi, -, hr⟩⟩ := readyCycle_cases s
    all_goals
      rw [hr] at h
      injection h with h
      subst h
    · exact .inr ⟨rfl, (cycleFault_code hc).1⟩
    · exact absurd rfl hne
    · by_cases hkey : ∃ x, i = .ldVxKey x
      · obtain ⟨x, rfl⟩ := hkey
        exact .inl ⟨rfl, x, hi, rfl⟩
      · exact absurd (effect_dstate i s.advance fun x hx => hkey ⟨x, hx⟩) hne
  · rw [cycle_idle hd] at h
    injection h with h
    exact absurd (h ▸ rfl) hne

@[simp] theorem tick_dstate (s : State) : (tick s).dstate = s.dstate := by
  unfold tick
  split <;> rfl

/-- A press of a released key ends the wait (43_keys_timers.md R184). -/
theorem keyEvent_resolves {s : State} {k : RegIdx} (hd : s.dstate = .awaitingKey) (hk : s.key[k] = false) :
    keyEvent k true s = s.resolveKey k := by
  unfold keyEvent
  rw [hd]
  exact if_pos ⟨rfl, hk⟩

/-- No other key event changes the dispatcher's state. -/
theorem keyEvent_dstate {s : State} {k : RegIdx} {p : Bool} (hne : (keyEvent k p s).dstate ≠ s.dstate) :
    s.dstate = .awaitingKey ∧ (keyEvent k p s).dstate = .ready ∧ p = true ∧ s.key[k] = false := by
  unfold keyEvent at hne
  split at hne
  case h_2 hd =>
    split at hne
    · next hpress =>
      obtain ⟨rfl, hk⟩ := hpress
      exact ⟨hd, by rw [keyEvent_resolves hd hk]; rfl, rfl, hk⟩
    · exact absurd rfl hne
  all_goals exact absurd rfl hne

/-! ## The listed transitions -/

/-- Only the listed events and conditions change the dispatcher's state, each to the state listed for it. -/
theorem step_dstate {s t : State} (h : step s = .next t) (hne : t.dstate ≠ s.dstate) :
    (s.dstate = .ready ∧ t.dstate = .awaitingKey ∧ s.nextEvent = .cycle ∧
        ∃ x, decode (fetched s s.pc.toNat) = .instr (.ldVxKey x) ∧ t.waitX = x) ∨
      (s.dstate = .awaitingKey ∧ t.dstate = .ready ∧ ∃ k : RegIdx, s.nextEvent = .key k true ∧ s.key[k] = false) ∨
      (s.dstate = .ready ∧ t.dstate = .halted ∧ s.nextEvent = .cycle ∧ t.fsr.cause ≠ 0) ∨
      (t.dstate = .terminated ∧ s.nextEvent = .quit) ∨
      (t.dstate = .ready ∧ ∃ rom, s.nextEvent = .reset rom) := by
  obtain ⟨rom, he, -, rfl⟩ | ⟨he, hc⟩ | ⟨-, rfl⟩ | ⟨k, p, he, rfl⟩ | ⟨he, rfl⟩ := step_cases h
  · exact .inr (.inr (.inr (.inr ⟨State.setBytes_dstate .., rom, he⟩)))
  · obtain ⟨hd, ⟨hd', hx⟩ | ⟨hd', hfsr⟩⟩ := cycle_dstate (s := s.takeEvent) hc hne
    · exact .inl ⟨hd, hd', he, hx⟩
    · exact .inr (.inr (.inl ⟨hd, hd', he, hfsr⟩))
  · exact absurd (tick_dstate s.takeEvent) hne
  · obtain ⟨hd, hd', rfl, hk⟩ := keyEvent_dstate (s := s.takeEvent) hne
    exact .inr (.inl ⟨hd, hd', k, he, hk⟩)
  · exact .inr (.inr (.inr (.inl ⟨rfl, he⟩)))

theorem step_ldVxKey {s : State} {x : RegIdx} (he : s.nextEvent = .cycle) (hd : s.dstate = .ready)
    (hp : s.pc.toNat + 1 < 0x1000) (hx : decode (fetched s s.pc.toNat) = .instr (.ldVxKey x)) :
    step s = .next (s.takeEvent.advance.await x) :=
  (step_eq_readyCycle he hd).trans (readyCycle_instr (s := s.takeEvent) hp hx)

theorem step_resolveKey {s : State} {k : RegIdx} (he : s.nextEvent = .key k true) (hd : s.dstate = .awaitingKey)
    (hk : s.key[k] = false) : step s = .next (s.takeEvent.resolveKey k) := by
  rw [step_eq, he]
  exact congrArg _ (keyEvent_resolves (s := s.takeEvent) hd hk)

/-- A cycle for which the claims name a fault leaves what that fault leaves (60_exceptions.md R223). -/
theorem step_cycleFault {s : State} {c : BitVec 4} {info : Nat} (he : s.nextEvent = .cycle) (hd : s.dstate = .ready)
    (hc : cycleFault s = some (c, info)) :
    step s = .next (s.takeEvent.afterFetch.faulted s.pc c (BitVec.ofNat 16 info)) := by
  have htake : cycleFault s.takeEvent = some (c, info) := hc
  rw [step_eq_readyCycle he hd]
  obtain ⟨c', info', hc', hr⟩ | ⟨hnone, -⟩ := readyCycle_cases s.takeEvent
  · obtain ⟨rfl, rfl⟩ : c' = c ∧ info' = info := by simpa using hc'.symm.trans htake
    exact hr
  · exact nomatch hnone.symm.trans htake

theorem step_quit {s : State} (he : s.nextEvent = .quit) : step s = .next (quit s.takeEvent) := by
  rw [step_eq, he]
  rfl

theorem step_reset {s : State} {rom : List Byte} (he : s.nextEvent = .reset rom) (hl : rom.length ≤ 3584) :
    step s = .next (s.takeEvent.cleared.setBytes 0x200 rom) := by
  rw [step_eq, he]
  exact if_pos hl

/-- Settles O17: no step makes another transition, and each listed one has a step that makes it. -/
theorem dispatcherTransitionsAreTheListedOnes : Obligations.DispatcherTransitionsAreTheListedOnes := by
  refine ⟨fun s t => step_dstate, fun s =>
    ⟨fun x he hd hp hx => ?_, fun k he hd hk => ?_, fun he hd hc => ?_, fun he => ?_, fun rom he hl => ?_⟩⟩
  · exact ⟨_, step_ldVxKey he hd hp hx, rfl, rfl⟩
  · exact ⟨_, step_resolveKey he hd hk, rfl⟩
  · obtain ⟨⟨c, info⟩, hc⟩ := Option.ne_none_iff_exists'.1 hc
    exact ⟨_, step_cycleFault he hd hc, rfl⟩
  · exact ⟨_, step_quit he, rfl⟩
  · exact ⟨_, step_reset he hl, State.setBytes_dstate ..⟩

end Sys2Proof.Machine
end

section
/-! PROOFS. Control flow (spec 40_flow.md): jumps, calls and returns, the skips, and the legacy call. -/

namespace Sys2Proof.Machine

/-! ## The decoder's outcome for the families of control flow (30_encoding.md R85 to R87) -/

section
variable {op : Word}

theorem decode_family0 (hf : Word.family op = 0x0) : decode op = .instr (decode0 op) := by
  rw [decode, hf]; rfl

theorem decode_family1 (hf : Word.family op = 0x1) : decode op = .instr (.jp (Word.nnn op)) := by
  rw [decode, hf]; rfl

theorem decode_family2 (hf : Word.family op = 0x2) : decode op = .instr (.call (Word.nnn op)) := by
  rw [decode, hf]; rfl

theorem decode_family3 (hf : Word.family op = 0x3) : decode op = .instr (.seImm (Word.x op) (Word.nn op)) := by
  rw [decode, hf]; rfl

theorem decode_family4 (hf : Word.family op = 0x4) : decode op = .instr (.sneImm (Word.x op) (Word.nn op)) := by
  rw [decode, hf]; rfl

theorem decode_family5 (hf : Word.family op = 0x5) :
    decode op = if Word.n op = 0 then .instr (.seReg (Word.x op) (Word.y op)) else .unsupported op := by
  rw [decode, hf]; rfl

theorem decode_family9 (hf : Word.family op = 0x9) :
    decode op = if Word.n op = 0 then .instr (.sneReg (Word.x op) (Word.y op)) else .unsupported op := by
  rw [decode, hf]; rfl

theorem decode_familyB (hf : Word.family op = 0xB) : decode op = .instr (.jpV0 (Word.nnn op)) := by
  rw [decode, hf]; rfl

end

/-! ## Jumps (R112, R118) -/

theorem toNat_zextAddr (nnn : Addr) : (zextAddr nnn).toNat = nnn.toNat :=
  BitVec.toNat_setWidth_of_le (by decide)

/-- The sum of 12 and 8 bits fits in 16, so no mask and no wrap (R118). -/
theorem toNat_offsetTarget (nnn : Addr) (v0 : Byte) : (offsetTarget nnn v0).toNat = nnn.toNat + v0.toNat := by
  rw [offsetTarget_eq_ofNat, BitVec.toNat_ofNat]
  omega

/-- Settles O35: each jump is `setPc` to its target. -/
theorem jumpsSetPcOnly : Obligations.JumpsSetPcOnly :=
  ⟨fun _ => decode_family1, fun _ => decode_familyB, fun nnn s =>
    ⟨⟨s.setPc (zextAddr nnn), rfl, rfl, toNat_zextAddr nnn⟩,
      ⟨s.setPc (offsetTarget nnn (s.reg 0)), rfl, rfl, toNat_offsetTarget nnn (s.reg 0)⟩⟩⟩

/-! ## Calls and returns (R111, R113) -/

section
variable {s : State}

theorem exec_call_of_lt (nnn : Addr) (h : s.stack.length < 16) :
    exec (.call nnn) s = .next ((s.push s.pc).setPc (zextAddr nnn)) :=
  if_neg (Nat.not_le.2 h)

theorem exec_call_of_ge (nnn : Addr) (h : 16 ≤ s.stack.length) :
    exec (.call nnn) s = .next (s.faulted (s.pc - 2) 2 (nnn.setWidth 16)) :=
  if_pos h

theorem exec_ret_of_append {l : List Word} {w : Word} (h : s.stack = l ++ [w]) :
    exec .ret s = .next { s with stack := l, pc := w } := by
  have htop : s.stack.getLast? = some w := by rw [h, List.getLast?_concat]
  have hrest : s.stack.dropLast = l := by rw [h, List.dropLast_concat]
  simp only [exec, execRet, htop, State.dropTop, hrest]
  rfl

theorem exec_ret_of_nil (h : s.stack = []) : exec .ret s = .next (s.faulted (s.pc - 2) 3 0) := by
  simp only [exec, execRet, h, List.getLast?_nil]
  rfl

end

/-- Settles O36: the two branches of the overflow check. -/
theorem callPushesTheReturnAddressOrOverflows : Obligations.CallPushesTheReturnAddressOrOverflows :=
  ⟨fun _ => decode_family2, fun nnn _ =>
    ⟨fun h => ⟨_, exec_call_of_lt nnn h, rfl, rfl, toNat_zextAddr nnn⟩, exec_call_of_ge nnn⟩⟩

/-- Settles O37: a stack with a last entry, and the empty one. -/
theorem returnPopsTheLastEntryOrUnderflows : Obligations.ReturnPopsTheLastEntryOrUnderflows :=
  ⟨by decide, fun _ => ⟨fun _ _ => exec_ret_of_append, exec_ret_of_nil⟩⟩

/-- Settles O38: the entry a call appends, the pc its handler sees, is the one a return takes off. -/
theorem returnUndoesCall : Obligations.ReturnUndoesCall := by
  intro nnn s t u hlen hcall hu
  rw [exec_call_of_lt nnn hlen] at hcall
  injection hcall with ht
  have hstack : u.stack = s.stack ++ [s.pc] := by rw [hu, ← ht, State.setPc_stack, State.push_stack]
  exact ⟨_, exec_ret_of_append hstack, rfl, rfl⟩

/-! ## Skips (R114 to R117, R119) -/

/-- A skip writes pc and nothing else. -/
theorem State.skipIf_record (s : State) {b : Bool} {p : Prop} [Decidable p] (h : b = true ↔ p) :
    s.skipIf b = { s with pc := if p then s.pc + 2 else s.pc } := by
  rw [← if_congr h rfl rfl]
  cases b <;> rfl

/-- Settles O39: each skip is `skipIf` on its test. -/
theorem byteSkipsAddTwoWhenTheTestHolds : Obligations.ByteSkipsAddTwoWhenTheTestHolds :=
  ⟨fun _ => decode_family3, fun _ => decode_family4, fun _ _ s =>
    ⟨congrArg _ (s.skipIf_record beq_iff_eq), congrArg _ (s.skipIf_record bne_iff_ne)⟩⟩

/-- Settles O40: a low nibble of 0 or not, and `skipIf` on each test. -/
theorem registerSkipsAddTwoWhenTheTestHolds : Obligations.RegisterSkipsAddTwoWhenTheTestHolds := by
  refine ⟨fun op hf => ?_, fun op hf => ?_, fun x y s => ⟨?_, ?_⟩⟩
  · rw [decode_family5 hf]
    exact ⟨fun hn => if_pos hn, fun hn => if_neg hn⟩
  · rw [decode_family9 hf]
    exact ⟨fun hn => if_pos hn, fun hn => if_neg hn⟩
  · exact congrArg _ (s.skipIf_record beq_iff_eq)
  · exact congrArg _ (s.skipIf_record bne_iff_ne)

/-! ## The legacy call (R110) -/

theorem exec_sys (nnn : Addr) (s : State) : exec (.sys nnn) s = .next (s.illegal .legacyCall (zextAddr nnn)) := by
  rw [zextAddr_eq_ofNat, ← encode_sys]
  rfl

/-- Settles O41: the legacy call's word is its operand, and the policy decides between the report and the fault. -/
theorem legacyCallIsReportedOrFaults : Obligations.LegacyCallIsReportedOrFaults := by
  refine ⟨fun op hf hcls hret => ?_, fun nnn s => ⟨fun hpol => ?_, fun hpol => ?_⟩⟩
  · rw [decode_family0 hf, decode0_eq_sys hcls hret]
  · rw [exec_sys, State.illegal_continues hpol]
    rfl
  · rw [exec_sys, State.illegal_halts hpol]
    rfl

end Sys2Proof.Machine
end

section
/-! PROOFS. Register loads and ALU (spec 41_alu.md): loads, copy and logic, the arithmetic with its flag, the shifts, and
the random byte. -/

namespace Sys2Proof.Machine

open Sys2Proof.Claims

/-! ## The decoder's outcome for the families of the ALU (30_encoding.md R85, R88) -/

/-- The decoder answers an instruction for the word that encodes it. -/
theorem decode_of_encode {i : Instr} {op : Word} (hi : i.wf = true) (h : encode i = op) : decode op = .instr i := by
  rw [← h, decode_encode hi]

section
variable {op : Word}

theorem decode_family6 (hf : Word.family op = 0x6) : decode op = .instr (.ldImm (Word.x op) (Word.nn op)) :=
  decode_of_encode rfl (formatXNN_of_family (congrArg _ hf))

theorem decode_family7 (hf : Word.family op = 0x7) : decode op = .instr (.addImm (Word.x op) (Word.nn op)) :=
  decode_of_encode rfl (formatXNN_of_family (congrArg _ hf))

theorem decode_familyC (hf : Word.family op = 0xC) : decode op = .instr (.rnd (Word.x op) (Word.nn op)) :=
  decode_of_encode rfl (formatXNN_of_family (congrArg _ hf))

/-- A word of family 8 is the instruction whose encoding ends in its low nibble (R88). -/
theorem decode_family8 {i : Instr} {k : Nibble} (hi : i.wf = true)
    (henc : encode i = formatXYN 0x8 (Word.x op) (Word.y op) k) (hf : Word.family op = 0x8) (hn : Word.n op = k) :
    decode op = .instr i :=
  decode_of_encode hi (henc.trans (formatXYN_of_n (congrArg _ hf) (congrArg _ hn)))

end

/-! ## What the two register updates write (R130) -/

theorem State.writesReg_setReg (s : State) (x : RegIdx) (b : Byte) : WritesReg s (s.setReg x b) x b :=
  ⟨rfl, s.reg_setReg_same x b, fun _ hr => s.reg_setReg_other b hr⟩

/-- The flag is written last, so it stands in `VF` for X = F as well. -/
theorem State.writesRegFlag_setRegFlag (s : State) (x : RegIdx) {b : Byte} {c : Bool} {r : Nat} {flag : Prop}
    (hb : b.toNat = r) (hc : c = true ↔ flag) : WritesRegFlag s (s.setRegFlag x b c) x r flag := by
  have hVF : (s.setRegFlag x b c).reg vF = flagByte c := State.reg_setReg_same ..
  have hother : ∀ k, k ≠ vF → (s.setRegFlag x b c).reg k = (s.setReg x b).reg k :=
    fun _ hk => State.reg_setReg_other _ _ hk
  refine ⟨rfl, fun h => ?_, fun h => ?_, fun hx => ?_, fun k hkx hkF => ?_⟩
  · rw [hVF, hc.2 h]; rfl
  · rw [hVF, Bool.eq_false_of_not_eq_true (mt hc.1 h)]; rfl
  · rw [hother x hx, State.reg_setReg_same, hb]
  · rw [hother k hkF, s.reg_setReg_other b hkx]

/-! ## Loads, copy and logic (R131 to R136) -/

/-- Settles O29: each instruction is one `setReg`, of the byte or of the sum. -/
theorem byteLoadAndByteAdd : Obligations.ByteLoadAndByteAdd :=
  ⟨fun _ => decode_family6, fun _ => decode_family7, fun x nn s =>
    ⟨⟨_, rfl, s.writesReg_setReg x nn⟩, ⟨_, rfl, s.writesReg_setReg x (addByte (s.reg x) nn)⟩⟩⟩

/-- Settles O30: each instruction is one `setReg`, of a value read before the write. -/
theorem copyAndLogicWriteOnlyTheDestination : Obligations.CopyAndLogicWriteOnlyTheDestination :=
  ⟨fun _ hf => ⟨decode_family8 rfl rfl hf, decode_family8 rfl rfl hf, decode_family8 rfl rfl hf,
      decode_family8 rfl rfl hf⟩,
    fun x y s => ⟨⟨_, rfl, s.writesReg_setReg x (s.reg y)⟩, ⟨_, rfl, s.writesReg_setReg x (s.reg x ||| s.reg y)⟩,
      ⟨_, rfl, s.writesReg_setReg x (s.reg x &&& s.reg y)⟩, ⟨_, rfl, s.writesReg_setReg x (s.reg x ^^^ s.reg y)⟩⟩⟩

/-! ## Addition and subtraction (R137, R138, R140) -/

section
variable (a b : Byte)

theorem toNat_addByte : (addByte a b).toNat = (a.toNat + b.toNat) % 256 := by
  rw [addByte, BitVec.toNat_ofNat, Nat.mod_mod]

theorem toNat_subByte : (subByte a b).toNat = (a.toNat + 256 - b.toNat) % 256 := by
  rw [subByte, BitVec.toNat_ofNat, Nat.mod_mod]

theorem carry_iff : carry a b = true ↔ 255 < a.toNat + b.toNat := decide_eq_true_iff

theorem noBorrow_iff : noBorrow a b = true ↔ b.toNat ≤ a.toNat := decide_eq_true_iff

end

/-- Settles O31: the sum and its carry. -/
theorem addWithCarry : Obligations.AddWithCarry :=
  ⟨fun _ => decode_family8 rfl rfl, fun x y s =>
    ⟨_, rfl, s.writesRegFlag_setRegFlag x (toNat_addByte (s.reg x) (s.reg y)) (carry_iff (s.reg x) (s.reg y))⟩⟩

/-- Settles O32: the same difference and flag, with the operands in either order. -/
theorem subtractionsFlagNoBorrow : Obligations.SubtractionsFlagNoBorrow :=
  ⟨fun _ => decode_family8 rfl rfl, fun _ => decode_family8 rfl rfl, fun x y s =>
    ⟨⟨_, rfl, s.writesRegFlag_setRegFlag x (toNat_subByte (s.reg x) (s.reg y)) (noBorrow_iff (s.reg x) (s.reg y))⟩,
      ⟨_, rfl, s.writesRegFlag_setRegFlag x (toNat_subByte (s.reg y) (s.reg x)) (noBorrow_iff (s.reg y) (s.reg x))⟩⟩⟩

/-! ## Shifts (R139, R141) -/

section
variable (a : Byte)

theorem toNat_shrByte : (shrByte a).toNat = a.toNat / 2 := by
  rw [shrByte, BitVec.toNat_ushiftRight, Nat.shiftRight_one]

theorem toNat_shlByte : (shlByte a).toNat = a.toNat * 2 % 256 := by
  rw [shlByte, BitVec.toNat_shiftLeft, Nat.shiftLeft_eq]

theorem shrOut_iff : shrOut a = true ↔ a.toNat % 2 = 1 := by
  rw [shrOut, BitVec.getLsbD, Nat.testBit_zero, decide_eq_true_iff]

/-- Bit 7, a byte's most significant one, is set from 128 on. -/
theorem shlOut_iff : shlOut a = true ↔ 128 ≤ a.toNat := by
  have hmsb : shlOut a = a.msb := rfl
  rw [hmsb, BitVec.msb_eq_decide, decide_eq_true_iff]

end

/-- Settles O33: the shifted byte and the bit shifted out, in which Y does not occur. -/
theorem shiftsFlagTheBitShiftedOut : Obligations.ShiftsFlagTheBitShiftedOut :=
  ⟨fun _ => decode_family8 rfl rfl, fun _ => decode_family8 rfl rfl, fun x _ s =>
    ⟨⟨_, rfl, s.writesRegFlag_setRegFlag x (toNat_shrByte (s.reg x)) (shrOut_iff (s.reg x))⟩,
      ⟨_, rfl, s.writesRegFlag_setRegFlag x (toNat_shlByte (s.reg x)) (shlOut_iff (s.reg x))⟩,
      fun _ => ⟨rfl, rfl⟩⟩⟩

/-! ## The random byte (R142) -/

section
variable {s : State} (x : RegIdx) (nn : Byte)

theorem exec_rnd_of_cons {b : Byte} {bs : List Byte} (h : s.rndIn = b :: bs) :
    exec (.rnd x nn) s = .next ({ s with rndIn := bs }.setReg x (b &&& nn)) := by
  simp only [exec, execRnd, State.takeDraw, State.rndByte, h]

theorem exec_rnd_of_nil (h : s.rndIn = []) :
    exec (.rnd x nn) s = .next ({ s with draws := s.draws + 1 }.setReg x (Config.freeRnd s.draws &&& nn)) := by
  simp only [exec, execRnd, State.takeDraw, State.rndByte, h]

end

/-- Settles O34: a byte is listed, or the draw is free. -/
theorem randomByteIsTheMaskedDraw : Obligations.RandomByteIsTheMaskedDraw := by
  refine ⟨fun _ => decode_familyC, fun x nn s => ?_⟩
  cases h : s.rndIn with
  | nil =>
    refine ⟨_, exec_rnd_of_nil x nn h, rfl, fun r hr => State.reg_setReg_other _ _ hr, nofun, fun _ => ?_⟩
    exact ⟨State.reg_setReg_same .., h, rfl⟩
  | cons b bs =>
    refine ⟨_, exec_rnd_of_cons x nn h, rfl, fun r hr => State.reg_setReg_other _ _ hr, ?_, nofun⟩
    rintro _ _ ⟨⟩
    exact ⟨State.reg_setReg_same .., rfl, rfl⟩

end Sys2Proof.Machine
end

section
/-! PROOFS. Display (spec 42_display.md): what a draw does to the buffer as a whole, bit by bit and row by row; the
clear, `DXYN`, and which steps emit an output event. -/

namespace Sys2Proof.Machine

open Sys2Proof.Claims

/-! ## Drawing a set of pixels (R161, R162) -/

/-- The canvas `c'` is `c` after the pixels in `P` were drawn, each once: exactly they are flipped, and a collision is
recorded when one of them was set. -/
structure Canvas.Drawn (P : Fin 32 → Fin 64 → Prop) (c c' : Canvas) : Prop where
  pixel : ∀ y x, c'.disp[y][x] = true ↔ Xor (c.disp[y][x] = true) (P y x)
  collided : c'.collided = true ↔ c.collided = true ∨ ∃ y x, P y x ∧ c.disp[y][x] = true

section
variable {P Q : Fin 32 → Fin 64 → Prop} {c c' c'' : Canvas}

theorem Canvas.Drawn.congr (h : c.Drawn P c') (hPQ : ∀ y x, Q y x ↔ P y x) : c.Drawn Q c' := by
  obtain rfl : Q = P := funext₂ fun y x => propext (hPQ y x)
  exact h

theorem Canvas.drawn_none (c : Canvas) : c.Drawn (fun _ _ => False) c where
  pixel := by simp [Xor]
  collided := by simp

/-- A second set that shares no pixel with the first meets the pixels as they were before both. -/
theorem Canvas.Drawn.trans (h : c.Drawn P c') (h' : c'.Drawn Q c'') (hPQ : ∀ y x, Q y x → ¬ P y x) :
    c.Drawn (fun y x => P y x ∨ Q y x) c'' where
  pixel y x := by
    have := hPQ y x
    rw [h'.pixel, h.pixel]
    unfold Xor
    tauto
  collided := by
    have hset : ∀ y x, Q y x → (c'.disp[y][x] = true ↔ c.disp[y][x] = true) := fun y x hQ => by
      rw [h.pixel]
      simp [Xor, hPQ y x hQ]
    rw [h'.collided, h.collided, or_assoc, ← exists_or]
    refine or_congr_right (exists_congr fun y => ?_)
    rw [← exists_or]
    refine exists_congr fun x => ?_
    rw [or_and_right]
    exact or_congr_right (and_congr_right (hset y x))

end

/-! ## The sprite unit's loops (R161) -/

theorem Canvas.drawBit_drawn (c : Canvas) (tx : Fin 64) (ty : Fin 32) (b : Bool) :
    c.Drawn (fun y x => (y = ty ∧ x = tx) ∧ b = true) (c.drawBit tx ty b) where
  pixel y x := by
    rw [c.drawBit_pixel]
    by_cases h : y = ty ∧ x = tx
    · cases b <;> simp [h, Xor]
    · simp [h, Xor]
  collided := by
    rw [c.drawBit_collided]
    simp

/-- Pixel column `x`, row `y` lies under a 1 bit among the first `k` of a sprite byte at column `x₀` of row `ty`. -/
def UnderBits (x₀ : Nat) (ty : Fin 32) (byte : Byte) (k : Nat) (y : Fin 32) (x : Fin 64) : Prop :=
  ∃ j < k, (y = ty ∧ x = Fin.ofNat 64 (x₀ + j)) ∧ byte.getLsbD (7 - j) = true

theorem underBits_succ (x₀ : Nat) (ty : Fin 32) (byte : Byte) (k : Nat) (y : Fin 32) (x : Fin 64) :
    UnderBits x₀ ty byte (k + 1) y x ↔
      UnderBits x₀ ty byte k y x ∨ (y = ty ∧ x = Fin.ofNat 64 (x₀ + k)) ∧ byte.getLsbD (7 - k) = true :=
  Nat.exists_lt_succ_right

theorem Canvas.drawBits_drawn (c : Canvas) (x₀ : Nat) (ty : Fin 32) (byte : Byte) {k : Nat} (hk : k ≤ 8) :
    c.Drawn (UnderBits x₀ ty byte k) (c.drawBits x₀ ty byte k) := by
  induction k with
  | zero => exact c.drawn_none.congr (by simp [UnderBits])
  | succ k ih =>
    refine ((ih (by omega)).trans (Canvas.drawBit_drawn ..) ?_).congr (underBits_succ x₀ ty byte k)
    rintro y x ⟨⟨-, rfl⟩, -⟩ ⟨j, hj, ⟨-, hcol⟩, -⟩
    exact hj.ne (column_inj (by omega) (by omega) hcol).symm

/-- The pixels under the 1 bits of `rows` at column `x₀`, row `y₀`: the claims' `Under`, for coordinates of any size. -/
def UnderRows (x₀ y₀ : Nat) (rows : List Byte) (y : Fin 32) (x : Fin 64) : Prop :=
  ∃ i, ∃ h : i < rows.length, UnderBits x₀ (Fin.ofNat 32 (y₀ + i)) rows[i] 8 y x

theorem underRows_cons (x₀ y₀ : Nat) (byte : Byte) (rows : List Byte) (y : Fin 32) (x : Fin 64) :
    UnderRows x₀ y₀ (byte :: rows) y x ↔
      UnderBits x₀ (Fin.ofNat 32 y₀) byte 8 y x ∨ UnderRows x₀ (y₀ + 1) rows y x := by
  have hrow : ∀ i, y₀ + 1 + i = y₀ + (i + 1) := by omega
  simp only [UnderRows, hrow]
  constructor
  · rintro ⟨_ | i, hi, h⟩
    · exact .inl h
    · exact .inr ⟨i, Nat.lt_of_succ_lt_succ hi, h⟩
  · rintro (h | ⟨i, hi, h⟩)
    · exact ⟨0, Nat.succ_pos _, h⟩
    · exact ⟨i + 1, Nat.succ_lt_succ hi, h⟩

/-- The rows of a sprite are distinct, for it has at most 32 of them. -/
theorem Canvas.drawRows_drawn (x₀ : Nat) (c : Canvas) (y₀ : Nat) {rows : List Byte} (hlen : rows.length ≤ 32) :
    c.Drawn (UnderRows x₀ y₀ rows) (Canvas.drawRows x₀ c y₀ rows) := by
  induction rows generalizing c y₀ with
  | nil => exact c.drawn_none.congr (by simp [UnderRows])
  | cons byte rows ih =>
    rw [List.length_cons] at hlen
    refine ((c.drawBits_drawn x₀ _ byte le_rfl).trans (ih _ (y₀ + 1) (by omega)) ?_).congr
      (underRows_cons x₀ y₀ byte rows)
    rintro y x ⟨i, hi, j, -, ⟨rfl, -⟩, -⟩ ⟨j', -, ⟨hrow, -⟩, -⟩
    rw [Nat.add_assoc] at hrow
    have := row_inj (k := 0) (by omega) (by omega) hrow
    omega

theorem under_iff_underRows (x y : Byte) (rows : List Byte) (py : Fin 32) (px : Fin 64) :
    Under x y rows py px ↔ UnderRows x.toNat y.toNat rows py px := by
  constructor
  · rintro ⟨i, j, hi, hj, hrow, hcol, hbit⟩
    exact ⟨i, hi, j, hj, ⟨Fin.ext hrow.symm, Fin.ext hcol.symm⟩, hbit⟩
  · rintro ⟨i, hi, j, hj, ⟨rfl, rfl⟩, hbit⟩
    exact ⟨i, j, hi, hj, rfl, rfl, hbit⟩

/-! ## The sprite unit (R161, R162, R166) -/

section
variable (d : Display) (x y : Byte) {rows : List Byte}

theorem drawSprite_drawn (hlen : rows.length ≤ 15) :
    Canvas.Drawn (Under x y rows) ⟨d, false⟩ (drawSprite d x y rows) :=
  (Canvas.drawRows_drawn _ _ _ (by omega)).congr (under_iff_underRows x y rows)

theorem drawSprite_pixel (hlen : rows.length ≤ 15) (py : Fin 32) (px : Fin 64) :
    (drawSprite d x y rows).disp[py][px] = true ↔ Xor (d[py][px] = true) (Under x y rows py px) :=
  (drawSprite_drawn d x y hlen).pixel py px

theorem drawSprite_collided (hlen : rows.length ≤ 15) :
    (drawSprite d x y rows).collided = true ↔
      ∃ (py : Fin 32) (px : Fin 64), Under x y rows py px ∧ d[py][px] = true := by
  simpa using (drawSprite_drawn d x y hlen).collided

end

/-- Settles O44. -/
theorem spriteUnitXorsPixelsUnderOneBits : Obligations.SpriteUnitXorsPixelsUnderOneBits :=
  fun d x y _ hlen => ⟨drawSprite_pixel d x y hlen, drawSprite_collided d x y hlen⟩

theorem Display.ext_pixel {d e : Display} (h : ∀ (y : Fin 32) (x : Fin 64), d[y][x] = true ↔ e[y][x] = true) : d = e :=
  Vector.ext fun y hy => Vector.ext fun x hx => Bool.eq_iff_iff.2 (h ⟨y, hy⟩ ⟨x, hx⟩)

/-- Settles O45: the second draw flips the pixels the first one flipped, and finds them flipped. -/
theorem drawingASpriteTwiceRestoresTheDisplay : Obligations.DrawingASpriteTwiceRestoresTheDisplay := by
  intro d x y rows hlen
  refine ⟨Display.ext_pixel fun py px => ?_, ?_⟩
  · rw [drawSprite_pixel _ x y hlen, drawSprite_pixel d x y hlen]
    unfold Xor
    tauto
  · rw [drawSprite_collided _ x y hlen]
    refine exists_congr fun py => exists_congr fun px => and_congr_right fun hu => ?_
    rw [drawSprite_pixel d x y hlen, ← Bool.not_eq_true]
    simp [Xor, hu]

/-! ## The display instructions (R164, R165) -/

/-- Settles O42. -/
theorem clearZeroesEveryPixel : Obligations.ClearZeroesEveryPixel := by
  refine ⟨by decide, fun s => ⟨_, rfl, rfl, fun y x => ?_⟩⟩
  simp [clearDisplay]

theorem decode_familyD {op : Word} (hf : Word.family op = 0xD) :
    decode op = .instr (.drw (Word.x op) (Word.y op) (Word.n op)) :=
  decode_of_encode rfl (formatXYN_of_family (congrArg _ hf))

/-- The sprite `DXYN` draws is the run of bytes at I. -/
theorem covered_iff_under (s : State) (x y : RegIdx) (n : Nibble) (py : Fin 32) (px : Fin 64) :
    Covered s x y n py px ↔ Under (s.reg x) (s.reg y) (s.bytesAt s.base n.toNat) py px := by
  simp only [Covered, Under, State.length_bytesAt, State.getElem_bytesAt, State.base_eq, exists_prop]

theorem exec_drw_ok {s : State} {n : Nibble} (x y : RegIdx) (h : n = 0 ∨ s.i.toNat + n.toNat ≤ 0x1000) :
    exec (.drw x y n) s = .next (s.draw x y n) := by
  have hrange : n.toNat = 0 ∨ s.i.toNat + n.toNat ≤ 0x1000 := h.imp_left (congrArg BitVec.toNat)
  have hf : faultOf (.drw x y n) s = none := if_neg (by omega)
  rw [exec_eq, hf]
  rfl

theorem exec_drw_fault {s : State} {n : Nibble} (x y : RegIdx) (hn : n ≠ 0) (h : 0x1000 < s.i.toNat + n.toNat) :
    exec (.drw x y n) s = .next (s.faulted (s.pc - 2) 6 (BitVec.ofNat 16 (max s.i.toNat 0x1000))) := by
  have hpos : 0 < n.toNat := Nat.pos_of_ne_zero fun h0 => hn (BitVec.eq_of_toNat_eq h0)
  have hf : faultOf (.drw x y n) s = some (6, max s.i.toNat 0x1000) := if_pos ⟨hpos, h⟩
  rw [exec_eq, hf]
  rfl

/-- Settles O43: with the range check passed, the sprite unit's draw and the flag of its collision; else the fault. -/
theorem drawXorsTheSpriteAndFlagsCollision : Obligations.DrawXorsTheSpriteAndFlagsCollision := by
  refine ⟨fun op => decode_familyD, fun x y n s => ⟨fun h => ?_, exec_drw_fault x y⟩⟩
  have hlen : (s.bytesAt s.base n.toNat).length ≤ 15 := by
    have := n.isLt
    rw [State.length_bytesAt]
    omega
  have hvF : (s.draw x y n).reg vF =
      flagByte (drawSprite s.disp (s.reg x) (s.reg y) (s.bytesAt s.base n.toNat)).collided := State.reg_setReg_same ..
  simp only [covered_iff_under, ← drawSprite_collided s.disp _ _ hlen]
  refine ⟨_, exec_drw_ok x y h, rfl, drawSprite_pixel s.disp _ _ hlen, fun hc => ?_, fun hc => ?_, fun r hr => ?_⟩
  · rw [hvF, hc]
    rfl
  · rw [hvF, Bool.eq_false_of_not_eq_true hc]
    rfl
  · exact State.reg_setReg_other _ _ hr

/-! ## Output events (R163, 10_state.md R49) -/

/-- Where the event that a step from `s` to `t` emits comes from, as R49 lists it. -/
def EmittedBy (s t : State) : Output → Prop
  | .clear => decode (fetched s s.pc.toNat) = .instr .cls
  | .frame d => d = t.disp ∧ t.dstate = .ready ∧ ∃ x y n, decode (fetched s s.pc.toNat) = .instr (.drw x y n)
  | .report c a info => a = s.pc ∧ c ≠ 0 ∧
      (t.dstate = .halted ∧ t.fsr = { cause := c, fpc := a, info := info } ∧
          (∃ b, cycleFault s = some (c, b) ∧ info = BitVec.ofNat 16 b) ∨
        t.dstate = .ready ∧ t.fsr = s.fsr ∧ info = fetched s s.pc.toNat ∧
          (c = 4 ∧ decode (fetched s s.pc.toNat) = .unsupported info ∨
            c = 5 ∧ ∃ nnn, decode (fetched s s.pc.toNat) = .instr (.sys nnn)))

theorem State.afterFetch_out (s : State) : s.afterFetch.out = s.out := by
  unfold State.afterFetch
  split <;> rfl

/-- The effect of the instruction a cycle in `Ready` fetched emits nothing, or one event of its own. The arms
not listed emit nothing. -/
theorem effect_advance_out {i : Instr} {s : State} (hd : s.dstate = .ready)
    (hi : decode (fetched s s.pc.toNat) = .instr i) :
    (effect i s.advance).out = s.out ∨
      ∃ e, (effect i s.advance).out = s.out ++ [e] ∧ EmittedBy s (effect i s.advance) e := by
  cases i with
  | cls => exact .inr ⟨.clear, rfl, hi⟩
  | drw x y n => exact .inr ⟨.frame _, rfl, rfl, hd, x, y, n, hi⟩
  | sys nnn =>
    exact .inr ⟨.report 5 (s.advance.pc - 2) (encode (.sys nnn)), rfl, s.advance_pc_sub_two, by decide,
      .inr ⟨hd, rfl, (wf_and_encode_of_decode hi).2, .inr ⟨rfl, nnn, hi⟩⟩⟩
  | _ => exact .inl (by simp [effect])

/-- A cycle in `Ready` emits a fault's report, an unsupported word's, or the event of its instruction. -/
theorem readyCycle_out {s t : State} (hd : s.dstate = .ready) (h : readyCycle s = .next t) :
    t.out = s.out ∨ ∃ e, t.out = s.out ++ [e] ∧ EmittedBy s t e := by
  obtain ⟨c, info, hc, hr⟩ | ⟨-, -, ⟨op, hop, hr⟩ | ⟨i, hi, -, hr⟩⟩ := readyCycle_cases s
  all_goals
    rw [hr] at h
    injection h with h
    subst h
  · exact .inr ⟨_, congrArg (· ++ _) s.afterFetch_out, rfl, (cycleFault_code hc).1, .inl ⟨rfl, rfl, info, hc, rfl⟩⟩
  · obtain rfl := eq_of_decode_unsupported hop
    exact .inr ⟨_, rfl, rfl, by decide, .inr ⟨hd, rfl, rfl, .inl ⟨rfl, hop⟩⟩⟩
  · exact effect_advance_out hd hi

@[simp] theorem tick_out (s : State) : (tick s).out = s.out := by
  unfold tick
  split <;> rfl

@[simp] theorem keyEvent_out (k : RegIdx) (p : Bool) (s : State) : (keyEvent k p s).out = s.out := by
  unfold keyEvent
  split
  case h_2 => split <;> rfl
  all_goals rfl

/-- A step emits nothing, or it is a cycle in `Ready` that emits one event. -/
theorem step_out {s t : State} (h : step s = .next t) :
    t.out = s.out ∨ ∃ e, t.out = s.out ++ [e] ∧ s.nextEvent = .cycle ∧ s.dstate = .ready ∧ EmittedBy s t e := by
  obtain ⟨rom, -, -, rfl⟩ | ⟨he, hc⟩ | ⟨-, rfl⟩ | ⟨k, p, -, rfl⟩ | ⟨-, rfl⟩ := step_cases h
  · exact .inl (State.setBytes_out ..)
  · by_cases hd : s.dstate = .ready
    · rw [cycle_ready (s := s.takeEvent) hd] at hc
      obtain hout | ⟨e, hout, hby⟩ := readyCycle_out (s := s.takeEvent) hd hc
      · exact .inl hout
      · exact .inr ⟨e, hout, he, hd, hby⟩
    · rw [cycle_idle (s := s.takeEvent) hd] at hc
      injection hc with hc
      exact .inl (hc ▸ rfl)
  · exact .inl (tick_out s.takeEvent)
  · exact .inl (keyEvent_out k p s.takeEvent)
  · exact .inl rfl

/-- Settles O23, by the one event of a step and its source. -/
theorem outputsComeOnlyFromTheirInstructions : Obligations.OutputsComeOnlyFromTheirInstructions := by
  intro s t h
  refine (step_out h).imp_right ?_
  rintro ⟨e, hout, he, hd, hby⟩
  refine ⟨e, hout, he, hd, ?_, ?_, ?_⟩
  · rintro rfl
    exact hby
  · rintro d rfl
    exact hby
  · rintro c a info rfl
    exact hby

end Sys2Proof.Machine
end

section
/-! PROOFS. Keys and timers (spec 43_keys_timers.md): the key skips, the timer moves, and the key wait: how it is
entered and resolved, and what it outlasts. -/

namespace Sys2Proof.Machine

open Sys2Proof.Claims

/-- A word is the instruction whose encoding has its family and ends in its low byte (30_encoding.md R89). -/
theorem decode_family_nn {op : Word} {i : Instr} {f : Nibble} {k : Byte} (hi : i.wf = true)
    (henc : encode i = formatXNN f (Word.x op) k) (hf : Word.family op = f) (hn : Word.nn op = k) :
    decode op = .instr i :=
  decode_of_encode hi (henc.trans (formatXNN_of_nn (congrArg _ hf) (congrArg _ hn)))

/-! ## The key skips (R180 to R182) -/

theorem State.withKey_of_toNat_eq (s : State) {b : Byte} {k : RegIdx} (f : RegIdx → State → State)
    (h : b.toNat = k.val) : s.withKey b f = .next (f k s) := by
  have hlt : b.toNat < 16 := h ▸ k.isLt
  rw [s.withKey_ok f hlt, show ⟨b.toNat, hlt⟩ = k from Fin.ext h]

/-- Settles O46: where VX is a key's index each skip is `skipIf` on that key's state, above that the key check fails. -/
theorem keySkipsTestTheKeyOrFault : Obligations.KeySkipsTestTheKeyOrFault := by
  refine ⟨fun _ => decode_family_nn rfl rfl, fun _ => decode_family_nn rfl rfl, fun x s =>
    ⟨fun k hk => ⟨?_, ?_⟩, fun h => ⟨s.withKey_fault _ h, s.withKey_fault _ h⟩⟩⟩
  · exact (s.withKey_of_toNat_eq _ hk).trans (congrArg _ (s.skipIf_record Iff.rfl))
  · exact (s.withKey_of_toNat_eq _ hk).trans (congrArg _ (s.skipIf_record (by rw [Bool.not_eq_true'])))

/-! ## The timer moves (R183, R185, R186) -/

/-- Settles O47: one `setReg`, one `setDt`, and one `setSt`, whose byte `sound_on` compares with 0. -/
theorem timerInstructionsMoveOneByte : Obligations.TimerInstructionsMoveOneByte :=
  ⟨fun _ hf => ⟨decode_family_nn rfl rfl hf, decode_family_nn rfl rfl hf, decode_family_nn rfl rfl hf⟩,
    fun x s => ⟨⟨_, rfl, s.writesReg_setReg x s.dt⟩, rfl, ⟨s.setSt (s.reg x), rfl, rfl, bne_iff_ne⟩⟩⟩

/-! ## The key list after one key is set (60_exceptions.md R239) -/

theorem State.key_setKey_same (s : State) (k : RegIdx) (p : Bool) : (s.setKey k p).key[k] = p :=
  Vector.getElem_set_self ..

theorem State.key_setKey_other (s : State) {j k : RegIdx} (p : Bool) (h : j ≠ k) :
    (s.setKey k p).key[j] = s.key[j] :=
  Vector.getElem_set_ne k.isLt j.isLt fun hkj => h (Fin.ext hkj.symm)

/-! ## What one event does to the key wait (R184) -/

/-- A release, or a press of a pressed key, leaves the wait as it is. -/
theorem keyEvent_keepsWaiting {s : State} {k : RegIdx} {p : Bool} (hd : s.dstate = .awaitingKey)
    (h : p = false ∨ s.key[k] = true) : keyEvent k p s = s.setKey k p := by
  unfold keyEvent
  rw [hd]
  refine if_neg ?_
  rintro ⟨rfl, hk⟩
  simp [hk] at h

section
variable {s : State} (hd : s.dstate = .awaitingKey)
include hd

theorem step_cycle_waiting (he : s.nextEvent = .cycle) : step s = .next s.takeEvent :=
  cycleOutsideReadyDoesNothing s he (by simp [hd])

theorem step_tick_waiting (he : s.nextEvent = .tick) : step s = .next s.takeEvent := by
  rw [step_eq, he]
  exact congrArg _ (tick_idle (s := s.takeEvent) (by simp [hd]))

theorem step_key_waiting {k : RegIdx} {p : Bool} (he : s.nextEvent = .key k p) (h : p = false ∨ s.key[k] = true) :
    step s = .next (s.takeEvent.setKey k p) := by
  rw [step_eq, he]
  exact congrArg _ (keyEvent_keepsWaiting (s := s.takeEvent) hd h)

end

theorem State.toNat_reg_resolveKey (s : State) (k : RegIdx) : ((s.resolveKey k).reg s.waitX).toNat = k.val := by
  have hreg : (s.resolveKey k).reg s.waitX = BitVec.ofNat 8 k.val := (s.setKey k true).reg_setReg_same ..
  rw [hreg]
  exact Nat.mod_eq_of_lt (by omega)

/-- Settles O48: the wait is entered by `await`, and each event has its step. -/
theorem keyWaitIsEnteredAndResolved : Obligations.KeyWaitIsEnteredAndResolved := by
  refine ⟨fun _ => decode_family_nn rfl rfl, fun x s => rfl, fun s hd =>
    ⟨step_cycle_waiting hd, step_tick_waiting hd, fun k he hk => ?_, fun k p he h => ?_, step_quit,
      fun rom he hl => ?_⟩⟩
  · exact ⟨_, step_resolveKey he hd hk, rfl, s.key_setKey_same k true, fun j => s.key_setKey_other true,
      s.takeEvent.toNat_reg_resolveKey k, fun r => (s.takeEvent.setKey k true).reg_setReg_other _⟩
  · exact ⟨_, step_key_waiting hd he h, rfl, s.key_setKey_same k p, fun j => s.key_setKey_other p⟩
  · exact ⟨_, step_reset he hl, State.setBytes_dstate ..⟩

/-! ## What the key wait outlasts (R184, 60_exceptions.md R246) -/

/-- The events that never resolve a key wait. -/
def Event.KeepsWaiting (e : Event) : Prop := e = .cycle ∨ e = .tick ∨ ∃ k, e = .key k false

/-- The key wait after more events: other keys, and the sequence that is left. -/
def State.waitedOn (s : State) (keys : Vector Bool 16) (q : EventStream) : State := { s with key := keys, events := q }

theorem step_waitedOn {s : State} (hd : s.dstate = .awaitingKey) (he : s.nextEvent.KeepsWaiting) :
    ∃ keys, step s = .next (s.waitedOn keys s.events.rest) := by
  obtain he | he | ⟨k, he⟩ := he
  · exact ⟨s.key, step_cycle_waiting hd he⟩
  · exact ⟨s.key, step_tick_waiting hd he⟩
  · exact ⟨_, step_key_waiting hd he (.inl rfl)⟩

theorem run_waitedOn {s : State} {es : List Event} {rest : EventStream} (hd : s.dstate = .awaitingKey)
    (hs : s.events = rest.prepend es) (hes : ∀ e ∈ es, e.KeepsWaiting) :
    ∃ keys, Host.Core.run Sys2Proof.core es.length s = .next (s.waitedOn keys rest) := by
  induction es generalizing s with
  | nil =>
    obtain rfl : s.events = rest := hs
    exact ⟨s.key, rfl⟩
  | cons e es ih =>
    obtain ⟨he, hes⟩ := List.forall_mem_cons.1 hes
    obtain ⟨keys, hstep⟩ := step_waitedOn hd (State.nextEvent_prepend hs ▸ he)
    obtain ⟨keys', hrun⟩ := ih (s := s.waitedOn keys s.events.rest) hd (congrArg EventStream.rest hs) hes
    exact ⟨keys', (run_succ (M := Sys2Proof.core) hstep es.length).trans hrun⟩

/-- Settles O49, by induction on the events. -/
theorem keyWaitOutlastsCyclesTicksAndReleases : Obligations.KeyWaitOutlastsCyclesTicksAndReleases := by
  intro s es rest hd hs hes
  obtain ⟨keys, hrun⟩ := run_waitedOn hd hs hes
  exact ⟨_, hrun, rfl⟩

end Sys2Proof.Machine
end

section
/-! PROOFS. Index and memory (spec 44_index_memory.md): the loads of I and its wrapping sum, the stores of digits and of
registers, and the load of registers. -/

namespace Sys2Proof.Machine

open Sys2Proof.Claims

/-! ## The loads of I (R200, R202) -/

theorem decode_familyA {op : Word} (hf : Word.family op = 0xA) : decode op = .instr (.ldI (Word.nnn op)) := by
  rw [decode, hf]; rfl

/-- The product of a byte and 5 fits in 16 bits, so no mask and no wrap (R202). -/
theorem toNat_glyphAddr (b : Byte) : (glyphAddr b).toNat = b.toNat * 5 :=
  Nat.mod_eq_of_lt (by omega)

/-- Settles O50: each instruction is `setI` of its value. -/
theorem indexLoadsSetIOnly : Obligations.IndexLoadsSetIOnly :=
  ⟨fun _ => decode_familyA, fun _ => decode_family_nn rfl rfl,
    fun nnn s => ⟨s.setI (zextAddr nnn), rfl, rfl, toNat_zextAddr nnn⟩,
    fun x s => ⟨s.setI (glyphAddr (s.reg x)), rfl, rfl, toNat_glyphAddr (s.reg x)⟩⟩

/-! ## The sum of I and a register (R201) -/

section
variable {i : Word} {b : Byte}

theorem toNat_indexAdd_of_gt (h : 0x0FFF < i.toNat + b.toNat) :
    (indexAdd i b).toNat = i.toNat + b.toNat - 0x1000 := by
  rw [indexAdd, indexSum, if_pos h, BitVec.toNat_ofNat]
  omega

theorem toNat_indexAdd_of_le (h : i.toNat + b.toNat ≤ 0x0FFF) : (indexAdd i b).toNat = i.toNat + b.toNat := by
  rw [indexAdd, indexSum, if_neg (Nat.not_lt.2 h), BitVec.toNat_ofNat]
  omega

theorem indexOverflow_of_gt (h : 0x0FFF < i.toNat + b.toNat) : indexOverflow i b = true := decide_eq_true h

theorem indexOverflow_of_le (h : i.toNat + b.toNat ≤ 0x0FFF) : indexOverflow i b = false :=
  decide_eq_false (Nat.not_lt.2 h)

end

/-- Settles O51: `setI` of the sum, whose two cases are the wrap and the flag, and then `setFlag`, the last write. -/
theorem indexAddWrapsAtTwelveBits : Obligations.IndexAddWrapsAtTwelveBits := by
  refine ⟨fun _ => decode_family_nn rfl rfl, fun x s => ⟨_, rfl, rfl, ?_, fun h => ⟨?_, ?_⟩, fun h => ⟨?_, ?_⟩⟩⟩
  · exact fun r hr => State.reg_setReg_other _ _ hr
  · exact toNat_indexAdd_of_gt h
  · rw [indexOverflow_of_gt h]
    exact State.reg_setReg_same ..
  · exact toNat_indexAdd_of_le h
  · rw [indexOverflow_of_le h]
    exact State.reg_setReg_same ..

/-! ## An instruction's answer, by its check (20_memory.md R66) -/

section
variable {i : Instr} {s : State}

theorem exec_of_faultOf_eq_none (h : faultOf i s = none) : exec i s = .next (effect i s) := by
  rw [exec_eq, h]
  rfl

theorem exec_of_faultOf_eq_some {c : BitVec 4} {info : Nat} (h : faultOf i s = some (c, info)) :
    exec i s = .next (s.faulted (s.pc - 2) c (BitVec.ofNat 16 info)) := by
  rw [exec_eq, h]
  rfl

/-- A store that begins in the font faults with the address I, whatever it reaches (20_memory.md R63). -/
theorem exec_of_faultOf_eq_font (h : faultOf i s = some (7, s.i.toNat)) :
    exec i s = .next (s.faulted (s.pc - 2) 7 s.i) := by
  rw [exec_of_faultOf_eq_some h, BitVec.ofNat_toNat, BitVec.setWidth_eq]

end

/-! ## The digits of a register (R203) -/

section
variable {s : State} (x : RegIdx)

theorem exec_bcd_ok (hlo : 0x050 ≤ s.i.toNat) (hhi : s.i.toNat + 2 < 0x1000) :
    exec (.bcd x) s = .next (s.setBytes s.i.toNat (bcdDigits (s.reg x))) :=
  exec_of_faultOf_eq_none (faultOf_bcd_eq_none.2 ⟨hlo, hhi⟩)

theorem exec_bcd_outside (h : 0x1000 ≤ s.i.toNat + 2) :
    exec (.bcd x) s = .next (s.faulted (s.pc - 2) 6 (BitVec.ofNat 16 (max s.i.toNat 0x1000))) :=
  exec_of_faultOf_eq_some ((if_neg (by omega)).trans (if_pos (by omega)))

theorem exec_bcd_font (h : s.i.toNat < 0x050) : exec (.bcd x) s = .next (s.faulted (s.pc - 2) 7 s.i) :=
  exec_of_faultOf_eq_font (if_pos h)

end

/-- Each digit of a byte is itself a byte, with nothing cut off. -/
theorem map_toNat_bcdDigits (b : Byte) :
    (bcdDigits b).map BitVec.toNat = [b.toNat / 100, b.toNat / 10 % 10, b.toNat % 10] := by
  simp only [bcdDigits, List.map_cons, List.map_nil, BitVec.toNat_ofNat, List.cons.injEq, and_true]
  omega

/-- Each digit stored stands at its own offset. -/
theorem State.toNat_byteAt_setBytes_bcdDigits {s : State} (hm : Memory.wf (initByte s.params) s.mem) {a k : Nat}
    (ha : a + 2 < 0x1000) (b : Byte) (hk : k < 3) :
    ((s.setBytes a (bcdDigits b)).byteAt (a + k)).toNat = [b.toNat / 100, b.toNat / 10 % 10, b.toNat % 10][k] := by
  have hlen : a + (bcdDigits b).length ≤ Config.memSize := ha
  have hmap : k < ((bcdDigits b).map BitVec.toNat).length := hk
  calc ((s.setBytes a (bcdDigits b)).byteAt (a + k)).toNat
    _ = ((bcdDigits b)[k]'hk).toNat := congrArg _ (State.byteAt_setBytes_inside hm hlen hk)
    _ = ((bcdDigits b).map BitVec.toNat)[k] := (List.getElem_map ..).symm
    _ = _ := List.getElem_of_eq (map_toNat_bcdDigits b) hmap

/-- Settles O52: with no check failing a run of three stores, of the digits; else the fault of the lower address. -/
theorem bcdStoresThreeDigitsOrFaults : Obligations.BcdStoresThreeDigitsOrFaults := by
  refine ⟨fun _ => decode_family_nn rfl rfl, fun x s => ⟨fun hlo hhi => ?_, exec_bcd_outside x, exec_bcd_font x⟩⟩
  refine ⟨_, exec_bcd_ok x hlo hhi, s.setBytes_record .., fun a ha => ?_, fun hm => ?_⟩
  · exact s.byteAt_setBytes_outside _ (ha.imp_right Nat.succ_le_of_lt)
  · have hdigit := fun k (hk : k < 3) => State.toNat_byteAt_setBytes_bcdDigits hm hhi (s.reg x) hk
    exact ⟨hdigit 0 (by decide), hdigit 1 (by decide), hdigit 2 (by decide)⟩

/-! ## The store of registers (R204) -/

section
variable {s : State} {x : RegIdx}

theorem exec_store_outside (hlo : 0x050 ≤ s.i.toNat) (h : 0x1000 ≤ s.i.toNat + x.val) :
    exec (.store x) s = .next (s.faulted (s.pc - 2) 6 (BitVec.ofNat 16 (max s.i.toNat 0x1000))) :=
  exec_of_faultOf_eq_some ((if_neg (Nat.not_lt.2 hlo)).trans (if_pos (Nat.lt_succ_of_le h)))

theorem exec_store_font (h : s.i.toNat < 0x050) : exec (.store x) s = .next (s.faulted (s.pc - 2) 7 s.i) :=
  exec_of_faultOf_eq_font (if_pos h)

end

/-- Settles O53: with no check failing a run of stores, of the registers; else the fault of the lower address. -/
theorem storeWritesTheRegistersOrFaults : Obligations.StoreWritesTheRegistersOrFaults := by
  refine ⟨fun _ => decode_family_nn rfl rfl, fun x s => ⟨fun hlo hhi => ?_, exec_store_outside, exec_store_font⟩⟩
  refine ⟨_, exec_store_ok hlo hhi, s.setBytes_record .., fun a ha => ?_, fun hm k => ?_⟩
  · exact s.byteAt_setBytes_outside _ (by rw [State.length_regsTo]; omega)
  · exact State.byteAt_setBytes_regsTo hm hhi

/-! ## The load of registers (R205) -/

section
variable {s : State} {x k : RegIdx}

theorem exec_load_ok (h : s.i.toNat + x.val < 0x1000) :
    exec (.load x) s = .next (s.loadRegs s.i.toNat (x.val + 1)) :=
  exec_of_faultOf_eq_none (if_neg (Nat.not_lt.2 h))

theorem exec_load_outside (h : 0x1000 ≤ s.i.toNat + x.val) :
    exec (.load x) s = .next (s.faulted (s.pc - 2) 6 (BitVec.ofNat 16 (max s.i.toNat 0x1000))) :=
  exec_of_faultOf_eq_some (if_pos (Nat.lt_succ_of_le h))

theorem State.reg_loadRegs_of_le (a : Nat) (hk : k.val ≤ x.val) :
    (s.loadRegs a (x.val + 1)).reg k = s.byteAt (a + k.val) := by
  rw [s.reg_loadRegs a _ (by omega), if_pos (Nat.lt_succ_of_le hk)]

theorem State.reg_loadRegs_of_gt (a : Nat) (hk : x.val < k.val) : (s.loadRegs a (x.val + 1)).reg k = s.reg k := by
  rw [s.reg_loadRegs a _ (by omega), if_neg (Nat.not_lt.2 hk)]

end

/-- Settles O54: with no check failing the loads of the registers up to VX, else the fault. -/
theorem loadReadsTheRegistersOrFaults : Obligations.LoadReadsTheRegistersOrFaults :=
  ⟨fun _ => decode_family_nn rfl rfl, fun _ s =>
    ⟨fun h => ⟨_, exec_load_ok h, s.loadRegs_record .., fun _ => State.reg_loadRegs_of_le s.i.toNat,
      fun _ => State.reg_loadRegs_of_gt s.i.toNat⟩, exec_load_outside⟩⟩

/-- Settles O55: the load reads the bytes the store left, for memory, parameters and I are the store's. -/
theorem loadAfterStoreRestoresTheRegisters : Obligations.LoadAfterStoreRestoresTheRegisters := by
  intro x s t u hm hlo hhi hstore hmem hparams hi
  rw [exec_store_ok hlo hhi] at hstore
  injection hstore with hstore
  subst hstore
  have hui : u.i = s.i := hi.trans (s.setBytes_i ..)
  refine ⟨_, exec_load_ok (hui ▸ hhi), fun k hk => ?_⟩
  calc (u.loadRegs u.i.toNat (x.val + 1)).reg k
    _ = u.byteAt (u.i.toNat + k.val) := State.reg_loadRegs_of_le u.i.toNat hk
    _ = (s.setBytes s.i.toNat (s.regsTo x)).byteAt (s.i.toNat + k.val) := by
      rw [State.byteAt_congr hmem hparams, hui]
    _ = s.reg k := State.byteAt_setBytes_regsTo hm hhi hk

end Sys2Proof.Machine
end

section
/-! PROOFS. Faults (spec 60_exceptions.md R221 to R229): an illegal word under either policy, and what a cycle in
`Ready` leaves with and without a fault. -/

namespace Sys2Proof.Machine

open Sys2Proof.Claims

/-! ## Illegal words (R226 to R228) -/

/-- A cycle that leaves the word to the policy reports it, or raises it as a fault, with the address of the fetch. -/
theorem step_illegal {s : State} {c : Cause} {op : Word} (he : s.nextEvent = .cycle) (hd : s.dstate = .ready)
    (h : readyCycle s.takeEvent = .next (s.takeEvent.advance.illegal c op)) :
    (s.params.illegalPolicy = .continues →
        step s = .next { s with
          pc := s.pc + 2, events := s.events.rest, out := s.out ++ [.report c.code s.pc op] }) ∧
      (s.params.illegalPolicy = .halts →
        step s = .next ({ s with pc := s.pc + 2, events := s.events.rest }.faulted s.pc c.code op)) := by
  rw [step_eq_readyCycle he hd, h]
  refine ⟨fun hpol => ?_, fun hpol => ?_⟩
  · rw [State.illegal_continues (s := s.takeEvent.advance) hpol, State.advance_pc_sub_two]
    rfl
  · rw [State.illegal_halts (s := s.takeEvent.advance) hpol, State.advance_pc_sub_two]
    rfl

/-- A legacy call leaves the word fetched to the policy (30_encoding.md R86, 40_flow.md R110). -/
theorem readyCycle_legacy {s : State} {nnn : Addr} (hp : s.pc.toNat + 1 < 0x1000)
    (hi : decode (fetched s s.pc.toNat) = .instr (.sys nnn)) :
    readyCycle s = .next (s.advance.illegal .legacyCall (fetched s s.pc.toNat)) := by
  rw [readyCycle_instr hp hi, ← (wf_and_encode_of_decode hi).2]
  rfl

/-- Settles O11: both classes of words are left to the policy, each with its own cause. -/
theorem illegalWordsFollowThePolicy : Obligations.IllegalWordsFollowThePolicy := by
  rintro s _ _ he hd hp rfl (⟨⟨nnn, hi⟩, rfl⟩ | ⟨hop, rfl⟩)
  · exact step_illegal he hd (readyCycle_legacy (s := s.takeEvent) hp hi)
  · exact step_illegal he hd (readyCycle_unsupported (s := s.takeEvent) hp hop)

/-! ## A cycle without a fault (R221) -/

/-- A cycle for which the claims name no fault leaves the core running and `FSR` alone; an illegal word is reported. -/
theorem step_of_cycleFault_none {s : State} (he : s.nextEvent = .cycle) (hd : s.dstate = .ready)
    (hc : cycleFault s = none) :
    ∃ t, step s = .next t ∧ t.dstate ≠ .halted ∧ t.fsr = s.fsr ∧
      (∀ op, decode (fetched s s.pc.toNat) = .unsupported op → t.out = s.out ++ [.report 4 s.pc op]) ∧
      (∀ nnn, decode (fetched s s.pc.toNat) = .instr (.sys nnn) →
        t.out = s.out ++ [.report 5 s.pc (fetched s s.pc.toNat)]) := by
  rw [step_eq_readyCycle he hd]
  obtain ⟨c, info, hc', -⟩ | ⟨-, -, ⟨op, hop, hr⟩ | ⟨i, hi, -, hr⟩⟩ := readyCycle_cases s.takeEvent
  · exact nomatch hc.symm.trans hc'
  · rw [fetched_takeEvent] at hop
    refine ⟨_, hr, ne_of_eq_of_ne hd nofun, rfl, fun op' hop' => ?_, fun nnn hi => ?_⟩
    · obtain rfl : op = op' := by injection hop.symm.trans hop'
      rfl
    · exact nomatch hop.symm.trans hi
  · rw [fetched_takeEvent] at hi
    refine ⟨_, hr, effect_dstate_running i hd, effect_fsr .., fun op hop => ?_, fun nnn hsys => ?_⟩
    · exact nomatch hi.symm.trans hop
    · obtain rfl : i = .sys nnn := by injection hi.symm.trans hsys
      have hword : encode (.sys nnn) = fetched s s.pc.toNat := (wf_and_encode_of_decode hi).2
      calc (effect (.sys nnn) s.takeEvent.advance).out
        _ = s.out ++ [.report 5 (s.takeEvent.advance.pc - 2) (encode (.sys nnn))] := rfl
        _ = _ := by rw [State.advance_pc_sub_two, State.takeEvent_pc, hword]

/-- A step that reports and does not halt ran an unsupported word or a legacy call (R227). -/
theorem illegal_of_report {s t : State} {c : BitVec 4} {a info : Word} (h : step s = .next t)
    (hd : t.dstate ≠ .halted) (hout : t.out = s.out ++ [.report c a info]) :
    (∃ op, decode (fetched s s.pc.toNat) = .unsupported op) ∨
      ∃ nnn, decode (fetched s s.pc.toNat) = .instr (.sys nnn) := by
  obtain hsame | ⟨e, hone, -, -, hby⟩ := step_out h
  · simp [hsame] at hout
  · obtain rfl : e = .report c a info := by simpa [hone] using hout
    obtain ⟨-, -, ⟨hhalted, -⟩ | ⟨-, -, -, ⟨-, hop⟩ | ⟨-, hsys⟩⟩⟩ := hby
    · exact absurd hhalted hd
    · exact .inl ⟨info, hop⟩
    · exact .inr hsys

/-- Settles O14: the named fault is raised; without one, a report names the class of the word fetched. -/
theorem cyclesFaultExactlyForTheListedCauses : Obligations.CyclesFaultExactlyForTheListedCauses := by
  intro s he hd
  refine ⟨fun c info hc => ?_, fun hc => ?_⟩
  · exact ⟨_, step_cycleFault he hd hc, rfl, rfl, congrArg (· ++ _) s.takeEvent.afterFetch_out⟩
  · obtain ⟨t, hstep, hrun, hfsr, hop, hsys⟩ := step_of_cycleFault_none he hd hc
    refine ⟨t, hstep, hrun, hfsr, hop, hsys, fun i hi hne c a info hout => ?_⟩
    obtain ⟨op, hop'⟩ | ⟨nnn, hsys'⟩ := illegal_of_report hstep hrun hout
    · exact nomatch hi.symm.trans hop'
    · exact hne nnn (by injection hi.symm.trans hsys')

/-! ## Precision (R223) -/

theorem State.afterFetch_record (s : State) :
    s.afterFetch = { s with pc := if 0x1000 ≤ s.pc.toNat + 1 then s.pc else s.pc + 2 } := by
  unfold State.afterFetch
  split <;> rfl

/-- Settles O13: only a cycle in `Ready` enters `Halted`, by the fault the claims name, and without one it does not. -/
theorem faultsArePrecise : Obligations.FaultsArePrecise := by
  intro s t h ht hs
  obtain ⟨hd, he⟩ : s.dstate = .ready ∧ s.nextEvent = .cycle := by
    obtain ⟨-, ht', -⟩ | ⟨-, ht', -⟩ | ⟨hd, -, he, -⟩ | ⟨ht', -⟩ | ⟨ht', -⟩ := step_dstate h (ht.trans_ne hs.symm)
    case inr.inr.inl => exact ⟨hd, he⟩
    all_goals exact nomatch ht'.symm.trans ht
  refine ⟨he, hd, ?_⟩
  cases hc : cycleFault s with
  | none =>
    obtain ⟨t', hstep, hrun, -⟩ := step_of_cycleFault_none he hd hc
    obtain rfl : t = t' := by injection h.symm.trans hstep
    exact absurd ht hrun
  | some e =>
    have hstep := step_cycleFault he hd hc
    rw [State.afterFetch_record, h] at hstep
    injection hstep with hstep
    exact ⟨e.1, _, (cycleFault_code hc).1, hstep⟩

end Sys2Proof.Machine
end

section
/-! PROOFS. The input events and their sequence (spec 60_exceptions.md R224, R234 to R241): what ticks, key events and
`quit` do by dispatcher state, that a step depends on one event alone, the sequences there are, and the timers over a
fair run. -/

namespace Sys2Proof.Machine

open Sys2Proof.Claims

/-! ## Events by dispatcher state (R236 to R241) -/

section
variable {s : State} {k : RegIdx} {p : Bool}

theorem step_tick (he : s.nextEvent = .tick) : step s = .next (tick s.takeEvent) := by
  rw [step_eq, he]
  rfl

theorem step_tick_ready (he : s.nextEvent = .tick) (hd : s.dstate = .ready) :
    step s = .next ((s.takeEvent.setDt (countDown s.dt)).setSt (countDown s.st)) := by
  rw [step_tick he, tick_ready (s := s.takeEvent) hd]
  rfl

theorem step_tick_idle (he : s.nextEvent = .tick) (hd : s.dstate ≠ .ready) : step s = .next s.takeEvent := by
  rw [step_tick he, tick_idle (s := s.takeEvent) hd]

theorem step_key_ready (he : s.nextEvent = .key k p) (hd : s.dstate = .ready) :
    step s = .next (s.takeEvent.setKey k p) := by
  simp only [step_eq, he, applyEvent, keyEvent, State.takeEvent_dstate, hd]

/-- A core that has stopped takes no key event. -/
theorem step_key_stopped (he : s.nextEvent = .key k p) (hd : s.dstate = .halted ∨ s.dstate = .terminated) :
    step s = .next s.takeEvent := by
  obtain hd | hd := hd
  all_goals simp only [step_eq, he, applyEvent, keyEvent, State.takeEvent_dstate, hd]

end

/-- Settles O15: `FSR` is written by a cycle in `Ready` and by reset only. -/
theorem haltedIsLeftOnlyByQuitAndReset : Obligations.HaltedIsLeftOnlyByQuitAndReset := by
  intro s hd
  have hidle : s.dstate ≠ .ready := ne_of_eq_of_ne hd nofun
  refine ⟨fun he => cycleOutsideReadyDoesNothing s he hidle, fun he => step_tick_idle he hidle,
    fun k p he => step_key_stopped he (.inl hd), step_quit, fun rom he hl => ?_, fun t h hreset => ?_⟩
  · exact ⟨_, step_reset he hl, State.setBytes_dstate ..⟩
  · by_contra hne
    obtain ⟨-, hready, -⟩ | ⟨rom, he, -⟩ := fsrIsWrittenByFaultsAndClearedByReset s t h hne
    · exact hidle hready
    · exact hreset rom he

/-- Settles O18: two counts in `Ready`, nothing elsewhere. -/
theorem tickCountsDownInReadyOnly : Obligations.TickCountsDownInReadyOnly := by
  have hzero : ∀ b : Byte, b = 0 → countDown b = 0 := by rintro _ rfl; rfl
  refine fun s he => ⟨fun hd => ⟨_, step_tick_ready he hd, rfl, ?_⟩, step_tick_idle he⟩
  exact ⟨fun _ => toNat_countDown s.dt, hzero s.dt, fun _ => toNat_countDown s.st, hzero s.st⟩

/-- Settles O20: the key is set, or resolves the wait, or is not taken. -/
theorem keyEventsSetKeysAndResolveTheWait : Obligations.KeyEventsSetKeysAndResolveTheWait := by
  intro s k p he
  refine ⟨fun h => ?_, ?_, step_key_stopped he⟩
  · have hstep : step s = .next (s.takeEvent.setKey k p) := by
      obtain hd | ⟨hd, hpress⟩ := h
      · exact step_key_ready he hd
      · exact step_key_waiting hd he (by simpa [imp_iff_not_or] using hpress)
    exact ⟨_, hstep, rfl, s.key_setKey_same k p, fun j => s.key_setKey_other p⟩
  · rintro hd rfl hk
    exact ⟨_, step_resolveKey he hd hk, rfl, s.key_setKey_same k true, fun j => s.key_setKey_other true,
      s.takeEvent.toNat_reg_resolveKey k, fun r => (s.takeEvent.setKey k true).reg_setReg_other _⟩

/-- Settles O21: a core that has terminated is left as it is by every event but reset, by `quit` too. -/
theorem quitTerminatesFromEveryState : Obligations.QuitTerminatesFromEveryState := by
  refine fun s => ⟨step_quit, fun hd hreset => ?_⟩
  have hidle : s.dstate ≠ .ready := ne_of_eq_of_ne hd nofun
  cases he : s.nextEvent with
  | reset rom => exact absurd he (hreset rom)
  | cycle => exact cycleOutsideReadyDoesNothing s he hidle
  | tick => exact step_tick_idle he hidle
  | key k p => exact step_key_stopped he (.inr hd)
  | quit => rw [step_quit he, quit, ← hd]; rfl

/-! ## A step depends on one event alone (R234, R235) -/

/-- The state with the input sequence `q`. -/
def State.withEvents (q : EventStream) (s : State) : State := { s with events := q }

section
variable (q : EventStream) (s : State)

theorem State.withEvents_dstate : (s.withEvents q).dstate = s.dstate := rfl
theorem State.withEvents_key : (s.withEvents q).key = s.key := rfl

theorem State.bytesAt_withEvents (a n : Nat) : (s.withEvents q).bytesAt a n = s.bytesAt a n := by
  induction n generalizing a with
  | zero => rfl
  | succ n ih => exact congrArg (s.byteAt a :: ·) (ih (a + 1))

theorem State.setBytes_withEvents (a : Nat) (xs : List Byte) :
    (s.withEvents q).setBytes a xs = (s.setBytes a xs).withEvents q := by
  induction xs generalizing s a with
  | nil => rfl
  | cons x xs ih => exact ih (s.setByte a x) (a + 1)

theorem State.loadRegs_withEvents (a n : Nat) :
    (s.withEvents q).loadRegs a n = (s.loadRegs a n).withEvents q := by
  induction n with
  | zero => rfl
  | succ n ih => exact congrArg (State.setReg · (Fin.ofNat 16 n) (s.byteAt (a + n))) ih

theorem State.skipIf_withEvents (b : Bool) : (s.withEvents q).skipIf b = (s.skipIf b).withEvents q := by
  cases b <;> rfl

theorem State.takeDraw_withEvents : (s.withEvents q).takeDraw = s.takeDraw.withEvents q := by
  simp only [State.takeDraw, State.withEvents]
  cases s.rndIn <;> rfl

theorem State.draw_withEvents (x y : RegIdx) (n : Nibble) :
    (s.withEvents q).draw x y n = (s.draw x y n).withEvents q := by
  unfold State.draw
  rw [State.bytesAt_withEvents]
  rfl

theorem faultOf_withEvents (i : Instr) : faultOf i (s.withEvents q) = faultOf i s := by
  cases i <;> rfl

/-- The arms not listed update named fields to values read from fields other than the input sequence. -/
theorem effect_withEvents (i : Instr) : effect i (s.withEvents q) = (effect i s).withEvents q := by
  cases i with
  | rnd x nn => exact congrArg (State.setReg · x (s.rndByte &&& nn)) (s.takeDraw_withEvents q)
  | seImm _ _ | sneImm _ _ | seReg _ _ | sneReg _ _ | skp _ | sknp _ => exact s.skipIf_withEvents q _
  | drw x y n => exact s.draw_withEvents q x y n
  | bcd _ | store _ => exact s.setBytes_withEvents q s.base _
  | load x => exact s.loadRegs_withEvents q s.base (x.val + 1)
  | _ => rfl

theorem exec_withEvents (i : Instr) : exec i (s.withEvents q) = mapNext (State.withEvents q) (exec i s) := by
  rw [exec_eq, exec_eq, faultOf_withEvents, effect_withEvents]
  cases faultOf i s <;> rfl

theorem State.illegal_withEvents (c : Cause) (op : Word) :
    (s.withEvents q).illegal c op = (s.illegal c op).withEvents q := by
  obtain ⟨hpol, h⟩ | ⟨hpol, h⟩ := s.illegal_cases c op
  · rw [h, State.illegal_continues (s := s.withEvents q) hpol]; rfl
  · rw [h, State.illegal_halts (s := s.withEvents q) hpol]; rfl

theorem execDecoded_withEvents (d : Decoded) :
    execDecoded d (s.withEvents q) = mapNext (State.withEvents q) (execDecoded d s) := by
  cases d with
  | instr i => exact exec_withEvents q s i
  | unsupported op => exact congrArg _ (s.illegal_withEvents q _ op)

theorem cycle_withEvents : cycle (s.withEvents q) = mapNext (State.withEvents q) (cycle s) := by
  by_cases hd : s.dstate = .ready
  · rw [cycle_ready hd, cycle_ready (s := s.withEvents q) hd, readyCycle, readyCycle]
    by_cases hp : Config.memSize ≤ s.pc.toNat + 1
    · rw [if_pos hp]
      exact if_pos hp
    · rw [if_neg hp]
      exact (if_neg hp).trans (execDecoded_withEvents q s.advance _)
  · rw [cycle_idle hd, cycle_idle (s := s.withEvents q) hd, mapNext_next]

theorem tick_withEvents : tick (s.withEvents q) = (tick s).withEvents q := by
  unfold tick
  rw [State.withEvents_dstate]
  cases s.dstate <;> rfl

theorem keyEvent_withEvents (k : RegIdx) (p : Bool) :
    keyEvent k p (s.withEvents q) = (keyEvent k p s).withEvents q := by
  unfold keyEvent
  rw [State.withEvents_dstate, State.withEvents_key]
  cases s.dstate with
  | awaitingKey => dsimp only; split <;> rfl
  | _ => rfl

theorem resetEvent_withEvents (rom : List Byte) :
    resetEvent rom (s.withEvents q) = mapNext (State.withEvents q) (resetEvent rom s) := by
  unfold resetEvent
  split
  · exact congrArg _ (s.cleared.setBytes_withEvents q _ rom)
  · rfl

/-- An event being applied leaves the sequence it was taken from alone and reads nothing of it. -/
theorem applyEvent_withEvents (e : Event) :
    applyEvent e (s.withEvents q) = mapNext (State.withEvents q) (applyEvent e s) := by
  cases e with
  | reset rom => exact resetEvent_withEvents q s rom
  | cycle => exact cycle_withEvents q s
  | tick => exact congrArg _ (tick_withEvents q s)
  | key k p => exact congrArg _ (keyEvent_withEvents q s k p)
  | quit => rfl

end

theorem step_withEvents {q : EventStream} {s : State} (hq : q.next = s.events.next) :
    step (s.withEvents q) = mapNext (State.withEvents q.rest) (step s) := by
  rw [step_eq, State.nextEvent_eq, State.withEvents, hq]
  exact applyEvent_withEvents q.rest s.takeEvent s.nextEvent

/-- A step takes the next event and leaves the rest: the sequence put back by a step is the one it started with. -/
theorem step_events {s t : State} (h : step s = .next t) : t.events = s.events.rest := by
  have hstep : step s = mapNext (State.withEvents s.events.rest) (step s) := step_withEvents (q := s.events) rfl
  rw [h] at hstep
  injection hstep with ht
  exact congrArg State.events ht

/-- Settles O57: with another sequence of the same next event a step answers the same, but for what is left of it. -/
theorem stepsTakeOneEventAndSeeNoLaterOne : Obligations.StepsTakeOneEventAndSeeNoLaterOne := by
  intro s q hq
  have hstep := step_withEvents hq
  refine ⟨fun t h => ⟨step_events h, ?_⟩, fun r h => ?_⟩
  all_goals
    rw [h] at hstep
    exact hstep

/-! ## The sequences there are (R235) -/

theorem EventStream.next_drop_prepend (q : EventStream) {es : List Event} {k : Nat} (h : k < es.length) :
    ((q.prepend es).drop k).next = es[k] := by
  induction es generalizing k with
  | nil => exact absurd h (Nat.not_lt_zero k)
  | cons e es ih =>
    cases k with
    | zero => rfl
    | succ k => exact ih (Nat.lt_of_succ_lt_succ h)

theorem EventStream.drop_prepend_length (q : EventStream) (es : List Event) :
    (q.prepend es).drop es.length = q := by
  induction es with
  | nil => rfl
  | cons e es ih => exact ih

/-- Taking an event from a repeating source rotates what it repeats. -/
theorem Source.rest_repeating (e : Event) (es : List Event) :
    ∃ f fs, (Source.repeating e es).rest = .repeating f fs ∧ f :: fs = (e :: es).rotate 1 := by
  cases es with
  | nil => exact ⟨e, [], rfl, by simp⟩
  | cons f es => exact ⟨f, es ++ [e], rfl, by simp⟩

/-- The k-th event of a repeating source is the k-th of what it repeats, counted round and round. -/
theorem EventStream.next_drop_repeating (e : Event) (es : List Event) (k : Nat) :
    some (EventStream.drop { listed := [], after := .repeating e es } k).next = (e :: es)[k % (es.length + 1)]? := by
  induction k generalizing e es with
  | zero => rfl
  | succ k ih =>
    obtain ⟨f, fs, hrest, hrot⟩ := Source.rest_repeating e es
    have hlen : fs.length + 1 = (e :: es).length := by
      rw [← List.length_rotate (e :: es) 1, ← hrot, List.length_cons]
    have hk : k % (e :: es).length < (e :: es).length := Nat.mod_lt k (Nat.succ_pos es.length)
    calc some (EventStream.drop { listed := [], after := .repeating e es } (k + 1)).next
      _ = (f :: fs)[k % (fs.length + 1)]? := by rw [EventStream.drop_succ, EventStream.rest_source, hrest, ih]
      _ = ((e :: es).rotate 1)[k % (e :: es).length]? := by rw [hrot, hlen]
      _ = (e :: es)[(k % (e :: es).length + 1) % (e :: es).length]? := List.getElem?_rotate hk
      _ = (e :: es)[(k + 1) % (es.length + 1)]? := by rw [Nat.mod_add_mod, List.length_cons]

theorem EventStream.next_drop_free (n k : Nat) :
    (EventStream.drop { listed := [], after := .free n } k).next = Config.freeEvent (n + k) := by
  induction k generalizing n with
  | zero => rfl
  | succ k ih =>
    rw [EventStream.drop_succ, EventStream.rest_source, Source.rest_free, ih, Nat.add_right_comm, Nat.add_assoc]

/-- A run of `k` steps has taken the first `k` events. -/
theorem run_events {k : Nat} {s t : State} (h : Host.Core.run Sys2Proof.core k s = .next t) :
    t.events = s.events.drop k := by
  induction k generalizing t with
  | zero =>
    injection h with h
    exact h ▸ rfl
  | succ k ih =>
    obtain ⟨u, hu, hstep⟩ := run_last h
    calc t.events
      _ = u.events.rest := step_events hstep
      _ = (s.events.drop k).rest := by rw [ih hu]
      _ = s.events.drop (k + 1) := s.events.rest_drop k

/-- Settles O58. -/
theorem everyOrderOfEventsIsAdmitted : Obligations.EveryOrderOfEventsIsAdmitted :=
  ⟨fun q es => ⟨fun _ => q.next_drop_prepend, q.drop_prepend_length es⟩, EventStream.next_drop_repeating,
    EventStream.next_drop_free, fun _ _ _ => run_events⟩

/-! ## The timers over a run (R236) -/

/-- The state with other timers and another input sequence. -/
def State.timed (s : State) (d e : Byte) (q : EventStream) : State := { s with dt := d, st := e, events := q }

theorem run_ticks {n : Nat} {s : State} {rest : EventStream} (hd : s.dstate = .ready)
    (hs : s.events = rest.prepend (List.replicate n .tick)) :
    ∃ d e, Host.Core.run Sys2Proof.core n s = .next (s.timed d e rest) ∧
      d.toNat = s.dt.toNat - n ∧ e.toNat = s.st.toNat - n := by
  induction n generalizing s with
  | zero =>
    obtain rfl : s.events = rest := hs
    exact ⟨s.dt, s.st, rfl, rfl, rfl⟩
  | succ n ih =>
    have hstep := step_tick_ready (State.nextEvent_prepend hs) hd
    obtain ⟨d, e, hrun, hdt, hst⟩ :=
      ih (s := s.timed (countDown s.dt) (countDown s.st) s.events.rest) hd (congrArg EventStream.rest hs)
    refine ⟨d, e, (run_succ (M := Sys2Proof.core) hstep n).trans hrun, ?_, ?_⟩
    · rw [hdt, State.timed, toNat_countDown, Nat.sub_sub, Nat.add_comm]
    · rw [hst, State.timed, toNat_countDown, Nat.sub_sub, Nat.add_comm]

/-- Settles O19, by induction on the ticks. -/
theorem ticksLowerEachTimerToAFloorOfZero : Obligations.TicksLowerEachTimerToAFloorOfZero := by
  intro n s rest hd hs
  obtain ⟨d, e, hrun, hdt, hst⟩ := run_ticks hd hs
  exact ⟨_, hrun, rfl, hdt.trans (Nat.zero_max _).symm, hst.trans (Nat.zero_max _).symm⟩

/-- A byte that counts down at the places in `P`, which never end, and stays the same elsewhere reaches 0: it takes a
least value, and the countdown at a later place in `P` is no lower. -/
theorem exists_eq_zero_of_frequent_countDown {f : Nat → Byte} {P : Nat → Prop} (hP : ∀ n, ∃ m, n ≤ m ∧ P m)
    (hdown : ∀ k, P k → f (k + 1) = countDown (f k)) (hsame : ∀ k, ¬ P k → f (k + 1) = f k) : ∃ k, f k = 0 := by
  have hnext : ∀ k, P k → (f (k + 1)).toNat = (f k).toNat - 1 := fun k hk => by rw [hdown k hk, toNat_countDown]
  have hanti : Antitone fun k => (f k).toNat := antitone_nat_of_succ_le fun k => by
    by_cases hk : P k
    · exact (hnext k hk).trans_le (Nat.sub_le ..)
    · exact (congrArg BitVec.toNat (hsame k hk)).le
  obtain ⟨k, hleast⟩ : ∃ k, ∀ m, (f k).toNat ≤ (f m).toNat :=
    ⟨_, fun m => Function.argmin_le (fun k => (f k).toNat) m⟩
  obtain ⟨m, hkm, hm⟩ := hP k
  have hle : (f m).toNat ≤ (f k).toNat := hanti hkm
  have hge : (f k).toNat ≤ (f m).toNat - 1 := (hleast (m + 1)).trans_eq (hnext m hm)
  have hzero : (f k).toNat = 0 := by omega
  exact ⟨k, BitVec.eq_of_toNat_eq hzero⟩

/-- The states of an endless run follow each other step by step. -/
theorem step_of_run {s : State} {t : Nat → State} (hrun : ∀ k, Host.Core.run Sys2Proof.core k s = .next (t k))
    (k : Nat) : step (t k) = .next (t (k + 1)) := by
  obtain ⟨u, hu, hstep⟩ := run_last (hrun (k + 1))
  obtain rfl : t k = u := by injection (hrun k).symm.trans hu
  exact hstep

/-- Settles O59: each of the ticks, which never end, counts both timers down. -/
theorem timersReachZeroWhenTicksNeverEnd : Obligations.TimersReachZeroWhenTicksNeverEnd := by
  intro s t hrun hready hticks
  have hdown : ∀ k, (s.events.drop k).next = .tick →
      (t (k + 1)).dt = countDown (t k).dt ∧ (t (k + 1)).st = countDown (t k).st := by
    intro k hk
    have he : (t k).nextEvent = .tick := by rw [State.nextEvent_eq, run_events (hrun k), hk]
    have hnext := (step_of_run hrun k).symm.trans (step_tick_ready he (hready k))
    injection hnext with hnext
    rw [hnext]
    exact ⟨rfl, rfl⟩
  refine ⟨fun hdt => ?_, fun hst => ?_⟩
  · exact exists_eq_zero_of_frequent_countDown (f := fun k => (t k).dt) hticks (fun k hk => (hdown k hk).1) hdt
  · exact exists_eq_zero_of_frequent_countDown (f := fun k => (t k).st) hticks (fun k hk => (hdown k hk).2) hst

end Sys2Proof.Machine
end

section
/-! PROOFS. The `reset` event (spec 70_reset_and_hazards.md R260 to R262): it leaves the values of 10_state.md R45 with
the ROM copied over the reset contents of memory, or is refused. -/

namespace Sys2Proof.Machine

open Sys2Proof.Claims

/-- Before the ROM is copied, memory reads as its reset contents. -/
theorem State.byteAt_cleared (s : State) (a : Nat) : s.cleared.byteAt a = initByte s.params a :=
  State.byteAt_of_mem_nil (cleared_mem s) a

/-- Below and above the copied ROM, memory still reads as its reset contents. -/
theorem State.byteAt_cleared_setBytes_outside (s : State) {a b : Nat} (rom : List Byte)
    (h : b < a ∨ a + rom.length ≤ b) : (s.cleared.setBytes a rom).byteAt b = initByte s.params b :=
  (s.cleared.byteAt_setBytes_outside rom h).trans (s.byteAt_cleared b)

theorem step_reset_refused {s : State} {rom : List Byte} (he : s.nextEvent = .reset rom) (hl : 3584 < rom.length) :
    step s = .refused .romTooLong := by
  rw [step_eq, he]
  exact if_neg (Nat.not_le.2 hl)

/-- Settles O22: copying the ROM changes memory alone, and only from 0x200 on; the other fields are those of the reset
state (O5) or the model's own. -/
theorem resetEventInitialisesEverything : Obligations.ResetEventInitialisesEverything := by
  refine fun s rom he => ⟨fun hl => ?_, step_reset_refused he⟩
  have houtside : ∀ a, a < 0x200 ∨ 0x200 + rom.length ≤ a →
      (s.takeEvent.cleared.setBytes 0x200 rom).byteAt a = initByte s.params a :=
    fun _ => s.takeEvent.byteAt_cleared_setBytes_outside rom
  refine ⟨_, step_reset he hl, fun k hk => ?_, fun a ha => ?_, fun a ha hrom => ?_, ?_⟩
  · exact State.byteAt_setBytes_inside s.takeEvent.inv_cleared.memory (Nat.add_le_add_left hl 0x200) hk
  · exact (houtside a (.inl (by omega))).trans (initByte_font _ ha)
  · exact (houtside a hrom).trans (initByte_of_ge _ ha)
  · obtain ⟨-, -, hreg, hi, hpc, hstack, hdt, hst, hkey, hdisp, hready, hwait, hfsr⟩ := resetStateHoldsTheListedValues
    rw [State.setBytes_record]
    exact ⟨hreg, hi, hpc, hstack, hdt, hst, hkey, hdisp, hwait, hfsr, hready, rfl, rfl, rfl, rfl, rfl⟩

end Sys2Proof.Machine
end
